-- ==== Sys2Proof/Word.lean ====
section
/-! DEFINITION. The word types of the block: a 32-bit bus word, a byte of the bus's byte lanes, a 17-bit offset of the host
window, and the binary32 pattern (00_scope.md R16, R25; 20_memory.md R100, R104). -/

namespace Sys2Proof

/-- One 32-bit word of the host bus (20_memory.md R106). -/
abbrev Word := BitVec 32

/-- One byte lane of a word (20_memory.md R104). -/
abbrev Byte := BitVec 8

/-- A byte offset from the block's base address (20_memory.md R100). -/
abbrev Offset := BitVec 17

/-- The bit pattern of a binary32 value: bit 31 the sign, bits 30:23 the biased exponent, bits 22:0 the fraction
(00_scope.md R16, 20_memory.md R105). -/
abbrev F32 := BitVec 32

end Sys2Proof
end

