-- ==== Sys2Proof/Config.lean ====
section
/-! DEFINITION. What the spec leaves to the implementation: the OPEN parameters (00_scope.md R6, R7), the configuration
functions (R10) and the free values (R31, 10_state.md R71, R75). `Cfg` is one choice of all of them, raw: the accessors of
Machine/Params.lean bring each raw value into the set the spec allows. The block's own choice is made of constants with no
body, so nothing can be proved about it beyond what every choice has. -/

namespace Sys2Proof

/-- One choice of everything the spec leaves open. The fields are raw: read them through Machine/Params.lean only. -/
structure Cfg where
  /-- P_SAMPLE_RATE before it is brought into its legal range (R6). -/
  sampleRateRaw : F32
  /-- P_MAX_FRAMES before it is brought into 1 .. 8192 (R7). -/
  maxFramesRaw : Nat
  /-- sin_cfg before the properties of R29 are imposed. -/
  sinRaw : F32 → F32
  /-- cos_cfg before the properties of R29 are imposed. -/
  cosRaw : F32 → F32
  /-- exp2_cfg before the properties of R30 are imposed. -/
  exp2Raw : F32 → F32
  /-- The k-th draw of the noise source before the range of R31 is imposed. -/
  noiseRaw : Nat → F32
  /-- What the k-th host read of an observation register or of OUTBUF during BUSY returns (10_state.md R71). -/
  busyRead : Nat → Word
  /-- The byte at an offset of OUTBUF that no PROCESS has written since the k-th reset (10_state.md R75). -/
  outbufFill : Nat → Nat → Byte

/-- OPEN parameter P_SAMPLE_RATE, raw (R6; log 1). -/
opaque Config.sampleRateRaw : F32
/-- OPEN parameter P_MAX_FRAMES, raw (R7; log 1). -/
opaque Config.maxFramesRaw : Nat
/-- Configuration function sin_cfg, raw (R10, R29; log 2). -/
opaque Config.sinRaw : F32 → F32
/-- Configuration function cos_cfg, raw (R10, R29; log 2). -/
opaque Config.cosRaw : F32 → F32
/-- Configuration function exp2_cfg, raw (R10, R30; log 2). -/
opaque Config.exp2Raw : F32 → F32
/-- Free value: the noise draws, raw (R31; log 3). -/
opaque Config.noiseRaw : Nat → F32
/-- Free value: host reads during BUSY (10_state.md R71; log 9). -/
opaque Config.busyRead : Nat → Word
/-- Free value: OUTBUF bytes not written since a reset (10_state.md R75; log 4). -/
opaque Config.outbufFill : Nat → Nat → Byte

/-- The block's own choice: every part of it uninterpreted. -/
def Config.machine : Cfg where
  sampleRateRaw := Config.sampleRateRaw
  maxFramesRaw := Config.maxFramesRaw
  sinRaw := Config.sinRaw
  cosRaw := Config.cosRaw
  exp2Raw := Config.exp2Raw
  noiseRaw := Config.noiseRaw
  busyRead := Config.busyRead
  outbufFill := Config.outbufFill

end Sys2Proof
end

