-- ==== Sys2Proof/Machine/Float.lean ====
section
/-! DEFINITION. binary32 arithmetic (00_scope.md R16 to R27): every finite value is a whole number of UNITS of 2^-149, so an
operation is exact integer arithmetic on units and one rounding to nearest, ties to even, at its end. -/

namespace Sys2Proof.Machine

/-! ## The format (R16) -/

/-- The sign bit. -/
def fsign (x : F32) : Bool := x.getLsbD 31

/-- The pattern with its sign bit cleared, as a number: it orders the magnitudes. -/
def fmag (x : F32) : Nat := x.toNat % 2 ^ 31

/-- The magnitude pattern of infinity. -/
abbrev infMag : Nat := 0x7F800000

/-- NaN: all exponent bits 1 and the fraction not 0. -/
def isNaN (x : F32) : Bool := decide (infMag < fmag x)

/-- An infinity of either sign. -/
def isInf (x : F32) : Bool := decide (fmag x = infMag)

/-- Neither an infinity nor NaN (R23). -/
def isFinite (x : F32) : Bool := decide (fmag x < infMag)

/-- The canonical quiet NaN, the result of every operation whose result is NaN (R21). -/
abbrev qNaN : F32 := 0x7FC00000#32

/-- +0.0. -/
abbrev posZero : F32 := 0x00000000#32

/-- −0.0. -/
abbrev negZero : F32 := 0x80000000#32

/-- The magnitude of a finite pattern in units of 2^-149: a subnormal (and each value of the first normal binade) is its own
pattern, and each later binade doubles the unit (R16, R19). -/
def magUnits (m : Nat) : Nat :=
  if m < 2 ^ 23 then m else (2 ^ 23 + m % 2 ^ 23) * 2 ^ (m / 2 ^ 23 - 1)

/-- A finite value in units of 2^-149. -/
def units (x : F32) : Int := if fsign x then -(magUnits (fmag x) : Int) else (magUnits (fmag x) : Int)

/-- 1.0 in units of 2^-149. -/
abbrev oneUnits : Nat := 2 ^ 149

/-- The pattern with a sign and a magnitude. -/
def fpack (neg : Bool) (m : Nat) : F32 := BitVec.ofNat 32 (m + if neg then 2 ^ 31 else 0)

/-! ## Rounding (R17, R19) -/

/-- `num / den` rounded to the nearest whole number, ties to even. -/
def roundNearest (num den : Nat) : Nat :=
  if 2 * (num % den) < den then num / den
  else if den < 2 * (num % den) then num / den + 1
  else num / den + num / den % 2

/-- The magnitude pattern nearest to `num / den` units, ties to even, infinity on overflow. The binade is found from the
number's whole part; from 24 bits on, the last place is `2 ^ k` units. -/
def roundMag (num den : Nat) : Nat :=
  let k := Nat.log2 (num / den) - 23
  min (k * 2 ^ 23 + roundNearest num (den * 2 ^ k)) infMag

/-- The binary32 value nearest to a signed number of units; `num` is not 0. -/
def roundUnits (num : Int) (den : Nat) : F32 := fpack (decide (num < 0)) (roundMag num.natAbs den)

/-! ## The operations (R17 to R21) -/

/-- Addition. An exact sum of zero is +0.0, or −0.0 when both operands are −0.0 (R20). -/
def fadd (x y : F32) : F32 :=
  if isNaN x || isNaN y then qNaN
  else if isInf x then (if isInf y && fsign x != fsign y then qNaN else x)
  else if isInf y then y
  else if units x + units y = 0 then (if fsign x && fsign y then negZero else posZero)
  else roundUnits (units x + units y) 1

/-- The value with its sign turned. -/
def fneg (x : F32) : F32 := x ^^^ 0x80000000#32

/-- Subtraction. -/
def fsub (x y : F32) : F32 := fadd x (fneg y)

/-- Multiplication; the sign is the exclusive or of the signs (R20). -/
def fmul (x y : F32) : F32 :=
  let neg := fsign x != fsign y
  if isNaN x || isNaN y then qNaN
  else if isInf x || isInf y then (if fmag x = 0 || fmag y = 0 then qNaN else fpack neg infMag)
  else fpack neg (roundMag (magUnits (fmag x) * magUnits (fmag y)) oneUnits)

/-- Division; a finite nonzero value over zero is an infinity (R20). -/
def fdiv (x y : F32) : F32 :=
  let neg := fsign x != fsign y
  if isNaN x || isNaN y then qNaN
  else if isInf x then (if isInf y then qNaN else fpack neg infMag)
  else if isInf y then fpack neg 0
  else if fmag y = 0 then (if fmag x = 0 then qNaN else fpack neg infMag)
  else fpack neg (roundMag (magUnits (fmag x) * oneUnits) (magUnits (fmag y)))

/-! ## Comparisons (R22): each is false when an operand is NaN, and −0.0 equals +0.0 -/

/-- A number that orders the values that are not NaN. -/
def fkey (x : F32) : Int := if fsign x then -(fmag x : Int) else (fmag x : Int)

/-- `x < y`. -/
def flt (x y : F32) : Bool := !isNaN x && !isNaN y && decide (fkey x < fkey y)

/-- `x ≤ y`. -/
def fle (x y : F32) : Bool := !isNaN x && !isNaN y && decide (fkey x ≤ fkey y)

/-- `x = y`. -/
def feq (x y : F32) : Bool := !isNaN x && !isNaN y && decide (fkey x = fkey y)

/-! ## abs, floor, conversion (R23, R24) -/

/-- The sign bit cleared. -/
def fabs (x : F32) : F32 := x &&& 0x7FFFFFFF#32

/-- A whole number of 1.0s as binary32: rounded to nearest, ties to even (R24). -/
def toF32 (i : Int) : F32 := if i = 0 then posZero else roundUnits (i * (oneUnits : Int)) 1

/-- The largest integral value not greater than x, for finite x; the floor of −0.0 is −0.0. R23 gives no floor to an infinity or
a NaN and no rule asks for one: x itself is returned. -/
def ffloor (x : F32) : F32 :=
  if !isFinite x || decide (fmag x = 0) then x else toF32 (units x / (oneUnits : Int))

/-! ## The shared functions clamp and wrap (R26, R27) -/

/-- `clamp(x, lo, hi)`: NaN gives the lower bound. -/
def clamp (x lo hi : F32) : F32 :=
  if isNaN x then lo else if flt x lo then lo else if flt hi x then hi else x

/-- `wrap(x)`: x brought into [0, 1). -/
def wrap (x : F32) : F32 :=
  if !isFinite x then posZero
  else if fle 0x3F800000#32 (fsub x (ffloor x)) then posZero
  else fsub x (ffloor x)

end Sys2Proof.Machine
end

