-- ==== Sys2Proof/Machine/Params.lean ====
section
/-! DEFINITION. The constants of the signal path (00_scope.md R9) and the parameters and configuration functions of one choice
`c` of what the spec leaves open (R6, R7, R10, R29 to R31). Each accessor brings the raw value into the set the spec allows: a
raw value inside the set is returned as it is, so every allowed choice arises, and only allowed ones (log 1, log 2, log 3). -/

namespace Sys2Proof.Machine

/-! ## Constants (R9) -/

/-- BASE_FREQ, 220.0. -/
abbrev baseFreq : F32 := 0x435C0000#32
/-- SEMITONES, 12.0. -/
abbrev semitones : F32 := 0x41400000#32
/-- P_INSTANT_RATE, 1000.0. -/
abbrev instantRate : F32 := 0x447A0000#32
/-- P_SUSTAIN_LEVEL, 1.0. -/
abbrev sustainLevel : F32 := 0x3F800000#32
/-- RES_MAX, 0.99 rounded. -/
abbrev resMax : F32 := 0x3F7D70A4#32
/-- Q_NUM, 0.5. -/
abbrev qNum : F32 := 0x3F000000#32
/-- TWO_PI, the binary32 value nearest 2π. -/
abbrev twoPi : F32 := 0x40C90FDB#32
/-- LFO_DEPTH, 5000.0. -/
abbrev lfoDepth : F32 := 0x459C4000#32
/-- CUTOFF_MIN, 20.0. -/
abbrev cutoffMin : F32 := 0x41A00000#32
/-- CUTOFF_MAX, 20000.0. -/
abbrev cutoffMax : F32 := 0x469C4000#32
/-- HYSTERESIS, 100.0. -/
abbrev hysteresis : F32 := 0x42C80000#32
/-- HALF, 0.5. -/
abbrev fhalf : F32 := 0x3F000000#32
/-- ONE, 1.0. -/
abbrev fone : F32 := 0x3F800000#32
/-- TWO, 2.0. -/
abbrev ftwo : F32 := 0x40000000#32
/-- THREE, 3.0. -/
abbrev fthree : F32 := 0x40400000#32
/-- FOUR, 4.0. -/
abbrev ffour : F32 := 0x40800000#32
/-- MINUS_TWO, −2.0. -/
abbrev fminusTwo : F32 := 0xC0000000#32
/-- −0.5 and −1.0, the lower bounds of R31 and R29. -/
abbrev fminusHalf : F32 := 0xBF000000#32
/-- −1.0. -/
abbrev fminusOne : F32 := 0xBF800000#32

/-! ## Parameters (R6, R7) -/

/-- The legal sample rates: finite and strictly greater than 40000.0 (R6). -/
def legalSampleRate (x : F32) : Bool := isFinite x && flt 0x471C4000#32 x

/-- P_SAMPLE_RATE. An illegal raw value counts as the smallest legal one. -/
def sampleRate (c : Cfg) : F32 := if legalSampleRate c.sampleRateRaw then c.sampleRateRaw else 0x471C4001#32

/-- P_MAX_FRAMES, 1 to 8192. -/
def maxFrames (c : Cfg) : Nat := (c.maxFramesRaw - 1) % 8192 + 1

/-! ## Configuration functions (R10, R29, R30) -/

/-- `lo ≤ x ≤ hi`, which no NaN meets. -/
def inRange (lo hi x : F32) : Bool := fle lo x && fle x hi

/-- sin_cfg: +0.0 at +0.0, within [−1.0, 1.0] at every finite argument (R29). -/
def sinCfg (c : Cfg) (x : F32) : F32 :=
  if x = posZero then posZero
  else if isFinite x && !inRange fminusOne fone (c.sinRaw x) then posZero
  else c.sinRaw x

/-- cos_cfg: 1.0 at +0.0, within [−1.0, 1.0] at every finite argument (R29). -/
def cosCfg (c : Cfg) (x : F32) : F32 :=
  if x = posZero then fone
  else if isFinite x && !inRange fminusOne fone (c.cosRaw x) then fone
  else c.cosRaw x

/-- The pattern of 2^k for −126 ≤ k ≤ 127. -/
def pow2 (k : Int) : F32 := BitVec.ofInt 32 ((k + 127) * 2 ^ 23)

/-- The whole number k in −126 .. 127 whose conversion (R24) is x. -/
def exactExponent (x : F32) : Option Int :=
  let k := units x / (oneUnits : Int)
  if decide (-126 ≤ k) && decide (k ≤ 127) && decide (toF32 k = x) then some k else none

/-- exp2_cfg: exactly 2^k at every whole number k in −126 .. 127, +inf at +inf, at least +0.0 and no NaN at every finite
argument (R30). -/
def exp2Cfg (c : Cfg) (x : F32) : F32 :=
  match exactExponent x with
  | some k => pow2 k
  | none =>
    if x = 0x7F800000#32 then 0x7F800000#32
    else if isFinite x && !fle posZero (c.exp2Raw x) then posZero
    else c.exp2Raw x

/-! ## The noise source (R31) -/

/-- The k-th draw: within [−0.5, 0.5], not NaN. -/
def noiseDraw (c : Cfg) (k : Nat) : F32 :=
  if inRange fminusHalf fhalf (c.noiseRaw k) then c.noiseRaw k else posZero

end Sys2Proof.Machine
end

