-- ==== Sys2Proof/Syntax.lean ====
section
/-! DEFINITION. The commands of the block, one constructor per row of spec/opcode_table.json (30_encoding.md R142). -/

namespace Sys2Proof

/-- A command with its operands as R146 gives them: the semitone index a signed integer, the frame count an unsigned one. -/
inductive Instr where
  /-- `NOTE_ON n` (R143). -/
  | noteOn (note : Int)
  /-- `NOTE_OFF` (R144). -/
  | noteOff
  /-- `PROCESS n` (R145). -/
  | process (frames : Nat)
  deriving DecidableEq, Repr

end Sys2Proof
end

