-- ==== Sys2Proof/Machine/State.lean ====
section
/-! DEFINITION. The state of the block as plain data (10_state.md R40 to R77) and its value after reset (70_reset_and_hazards.md
R400). Every register of the map has one home here; Machine/Bus.lean reads and writes them for the host. -/

namespace Sys2Proof.Machine

/-! ## Names -/

/-- The three oscillators (00_scope.md R8). -/
inductive OscId where
  | osc0 | osc1 | osc2
  deriving DecidableEq, Repr

/-- OSCk_CTRL.WAVE (10_state.md R47): code 3 is illegal and never held. -/
inductive Wave where
  /-- Code 0. -/
  | triangle
  /-- Code 1. -/
  | saw
  /-- Code 2. -/
  | noise
  deriving DecidableEq, Repr

/-- ENV_STATE.STATE (10_state.md R63, 41_envelope.md R220). -/
inductive EnvState where
  /-- Code 0. -/
  | idle
  /-- Code 1. -/
  | attack
  /-- Code 2. -/
  | sustain
  /-- Code 3. -/
  | release
  deriving DecidableEq, Repr

/-! ## The control register file (R46), which is also what the snapshot latch holds (R72) -/

/-- The control registers of one oscillator: OSCk_CTRL (EN and WAVE, R47) and OSCk_OFFSET (R48). -/
structure OscRegs where
  en : Bool
  wave : Wave
  offset : F32
  deriving DecidableEq, Repr

/-- The control registers (R47 to R58). -/
structure Controls where
  osc0 : OscRegs
  osc1 : OscRegs
  osc2 : OscRegs
  attackTime : F32
  releaseTime : F32
  cutoff : F32
  resonance : F32
  autoAmount : F32
  autoFreq : F32
  volume : F32
  octave : Word
  noteFreq : F32
  noteOn : Bool
  deriving DecidableEq, Repr

/-! ## Persistent engine state (R61 to R70) -/

/-- OSC0_PHASE, OSC1_PHASE, OSC2_PHASE (R61). -/
structure Phases where
  p0 : F32
  p1 : F32
  p2 : F32
  deriving DecidableEq, Repr

/-- The envelope: ENV_STATE, ENV_VALUE, ENV_ATTACK_RATE, ENV_RELEASE_RATE (R63 to R66). -/
structure Envelope where
  state : EnvState
  value : F32
  attackRate : F32
  releaseRate : F32
  deriving DecidableEq, Repr

/-- The five coefficients FILT_A0, FILT_A1, FILT_A2, FILT_B1, FILT_B2 (R68). -/
structure Coefs where
  a0 : F32
  a1 : F32
  a2 : F32
  b1 : F32
  b2 : F32
  deriving DecidableEq, Repr

/-- One channel's history x[n−1], x[n−2], y[n−1], y[n−2] (R69, R70). -/
structure History where
  x1 : F32
  x2 : F32
  y1 : F32
  y2 : F32
  deriving DecidableEq, Repr

/-- The filter (42_filter.md R260): coefficients, FILT_LAST_CUTOFF with the flag COEF_VALID (R67, STATUS bit 3 of R44), the left
and right histories, LFO_PHASE (R62). -/
structure FilterUnit where
  coefs : Coefs
  lastCutoff : F32
  coefValid : Bool
  left : History
  right : History
  lfoPhase : F32
  deriving DecidableEq, Repr

/-! ## Transient engine state (R72 to R74, R77) -/

/-- One stereo frame of a buffer: word 2i is the left and word 2i+1 the right sample (43_engine.md R333). -/
structure Frame where
  left : F32
  right : F32
  deriving DecidableEq, Repr

/-- SCRATCH_0, SCRATCH_1, SCRATCH_2 (R74): the frames each last received. -/
structure Scratch where
  s0 : List Frame
  s1 : List Frame
  s2 : List Frame
  deriving DecidableEq, Repr

/-- The stages of a PROCESS after its acceptance (43_engine.md R320). -/
inductive Stage where
  /-- Stage 2 (R323). -/
  | clearMix
  /-- Stage 3, one oscillator (R324, R325). -/
  | oscillator (k : OscId)
  /-- Stage 4 (R326). -/
  | envelope
  /-- Stage 5 (R327). -/
  | filter
  /-- Stage 6 (R328). -/
  | scale
  /-- Stage 7 (R329). -/
  | complete
  deriving DecidableEq, Repr

/-- Command progress of a running PROCESS: its frame count and the stage to run next (R77). -/
structure Progress where
  frames : Nat
  stage : Stage
  deriving DecidableEq, Repr

/-! ## Memory -/

/-- The OUTBUF window (R75) as the cells a PROCESS has written since reset: offsets strictly rising. An offset not listed holds
no value of its own (log 4). -/
abbrev Memory := List Host.Cell

/-! ## The outside world's moves (20_memory.md R114, 60_exceptions.md R372); the model's own, log 5 -/

/-- How many bytes a bus access moves; only `word` is legal (20_memory.md R107). -/
inductive AccessSize where
  | byte | half | word
  deriving DecidableEq, Repr

/-- One host bus access at a block-relative offset (20_memory.md R111, R112); `lanes` are a write's byte enables (R108). -/
inductive Access where
  | read (off : Offset) (size : AccessSize)
  | write (off : Offset) (size : AccessSize) (lanes : BitVec 4) (v : Word)
  deriving DecidableEq, Repr

/-- One coming move of the outside world. -/
inductive HostMove where
  /-- One bus access. -/
  | access (a : Access)
  /-- One turn of WAIT_IDLE: read STATUS, go on when bit 0 of the value read is 0 (30_encoding.md R151). -/
  | waitIdle
  /-- The host lets the engine have one stage's time. -/
  | engine
  /-- The platform's reset (70_reset_and_hazards.md R390). -/
  | reset
  deriving DecidableEq, Repr

/-- The granularity of PROCESS (10_state.md R77, 60_exceptions.md R372); the model's own, log 6. -/
inductive Pace where
  /-- A PROCESS is one step. -/
  | whole
  /-- A PROCESS is accepted in one step and each stage is a later step. -/
  | staged
  deriving DecidableEq, Repr

/-! ## The state -/

/-- The state of the block. STATUS.BUSY is `busy` below: it is 1 exactly while a PROCESS is in progress (R44, R321, R329). -/
structure State where
  /-- STATUS.ILL (R44). -/
  ill : Bool
  /-- STATUS.BUS_ERR (R44). -/
  busErr : Bool
  /-- The control register file (R46 to R58). -/
  ctl : Controls
  /-- OSCk_PHASE (R61). -/
  phases : Phases
  /-- ENV_STATE, ENV_VALUE, ENV_ATTACK_RATE, ENV_RELEASE_RATE (R63 to R66). -/
  env : Envelope
  /-- LFO_PHASE, FILT_*, HL_*, HR_*, STATUS.COEF_VALID (R62, R67 to R70). -/
  filt : FilterUnit
  /-- Command progress; none when no PROCESS runs (R77). -/
  progress : Option Progress
  /-- The snapshot latch S (R72). -/
  snap : Controls
  /-- MIX: the frames in use (R73). -/
  mix : List Frame
  /-- SCRATCH_k (R74). -/
  scratch : Scratch
  /-- OUTBUF (R75). -/
  outbuf : Memory
  /-- The model's own: the outside world's coming moves, the next one first (log 5). -/
  inbox : List HostMove
  /-- The model's own: the granularity of PROCESS (log 6). -/
  pace : Pace
  /-- The model's own: what the last host read returned (log 7). -/
  lastRead : Option Word
  /-- The model's own: how many noise draws have been made (log 3). -/
  noiseDraws : Nat
  /-- The model's own: how many reads during BUSY have been answered (log 9). -/
  busyReads : Nat
  /-- The model's own: how many resets after the first have happened (log 4). -/
  resets : Nat
  deriving DecidableEq, Repr

/-- STATUS.BUSY (R44). -/
def State.busy (s : State) : Bool := s.progress.isSome

/-! ## After reset (70_reset_and_hazards.md R400) -/

/-- OSCk_CTRL = 0 and OSCk_OFFSET = +0.0. -/
def OscRegs.reset : OscRegs := { en := false, wave := .triangle, offset := 0#32 }

/-- Every control register 0. -/
def Controls.reset : Controls where
  osc0 := OscRegs.reset
  osc1 := OscRegs.reset
  osc2 := OscRegs.reset
  attackTime := 0#32
  releaseTime := 0#32
  cutoff := 0#32
  resonance := 0#32
  autoAmount := 0#32
  autoFreq := 0#32
  volume := 0#32
  octave := 0#32
  noteFreq := 0#32
  noteOn := false

/-- Zero history. -/
def History.reset : History := { x1 := 0#32, x2 := 0#32, y1 := 0#32, y2 := 0#32 }

/-- The filter after reset: every register +0.0, COEF_VALID 0. -/
def FilterUnit.reset : FilterUnit where
  coefs := { a0 := 0#32, a1 := 0#32, a2 := 0#32, b1 := 0#32, b2 := 0#32 }
  lastCutoff := 0#32
  coefValid := false
  left := History.reset
  right := History.reset
  lfoPhase := 0#32

/-- The block right after reset (R400); S, MIX and SCRATCH have no specified value and hold what log 8 names. -/
def State.reset : State where
  ill := false
  busErr := false
  ctl := Controls.reset
  phases := { p0 := 0#32, p1 := 0#32, p2 := 0#32 }
  env := { state := .idle, value := 0#32, attackRate := 0#32, releaseRate := 0#32 }
  filt := FilterUnit.reset
  progress := none
  snap := Controls.reset
  mix := []
  scratch := { s0 := [], s1 := [], s2 := [] }
  outbuf := []
  inbox := []
  pace := .whole
  lastRead := none
  noiseDraws := 0
  busyReads := 0
  resets := 0

/-! ## Faults and refusals -/

/-- The block has no fault: no command, no bus access and no arithmetic operation stops it (60_exceptions.md R360). So this type
has no constructor and nothing raises one. -/
inductive Fault where
  deriving DecidableEq, Repr

/-- Why a command has no meaning here. -/
inductive Refusal where
  /-- An arm of `exec` whose command has no meaning yet. Safe: the model stops. No arm uses it. -/
  | notModelled (mnemonic : String)
  deriving DecidableEq, Repr

/-- The two error events of 60_exceptions.md R362. They stop nothing: each sets its sticky flag. -/
inductive Cause where
  /-- Cause 1, ILLEGAL_COMMAND: a CMD write whose word decodes to ILLEGAL. -/
  | illegalCommand
  /-- Cause 2, BUS_ERROR: an access of 20_memory.md R108. -/
  | busError
  deriving DecidableEq, Repr

/-- What the fetch of the next move gives `step`: a command taken with the state it is taken in, or the state after a move that
takes no command. -/
inductive Fetched where
  | moved (s : State)
  | command (i : Instr) (s : State)
  deriving DecidableEq, Repr

end Sys2Proof.Machine
end

