-- ==== Sys2Proof/Machine/Ops.lean ====
section
/-! DEFINITION. The named operations over memory and registers: OUTBUF's cells, selection of an oscillator's registers, the error
events, reset, and what happens when a PROCESS is accepted. The block has no exception entry and no return from one
(60_exceptions.md R365, R366): the shared operation that other hardware would call taking an exception is `raiseCause`. -/

namespace Sys2Proof.Machine

/-! ## OUTBUF as cells (10_state.md R75, 20_memory.md R102, R104) -/

/-- What an offset not listed reads as: no value of its own (log 4). -/
def Memory.unlisted : Option Byte := none

/-- The canonical form: offsets strictly rising. No entry equals what an unlisted offset reads as, since that is no byte. -/
def Memory.wf : Memory → Bool
  | [] => true
  | (a, _) :: rest => rest.all (fun c => decide (a < c.1)) && Memory.wf rest

/-- The byte at an offset. -/
def readByte : Memory → Nat → Option Byte
  | [], _ => Memory.unlisted
  | (k, b) :: rest, a => if k = a then some b else readByte rest a

/-- Store one byte, keeping the canonical form. -/
def writeByte : Memory → Nat → Byte → Memory
  | [], a, b => [(a, b)]
  | (k, x) :: rest, a, b =>
    if a < k then (a, b) :: (k, x) :: rest
    else if a = k then (a, b) :: rest
    else (k, x) :: writeByte rest a b

/-- Byte lane `b` of a word, bits 8b+7 to 8b (R104). -/
def byteLane (w : Word) (b : Nat) : Byte := w.extractLsb' (8 * b) 8

/-- Store one word: lane b at offset a + b. -/
def writeWord (m : Memory) (a : Nat) (w : Word) : Memory :=
  writeByte (writeByte (writeByte (writeByte m a (byteLane w 0)) (a + 1) (byteLane w 1)) (a + 2) (byteLane w 2)) (a + 3)
    (byteLane w 3)

/-- Store frames from an offset on, the left word before the right one (43_engine.md R333). -/
def writeFrames : Memory → Nat → List Frame → Memory
  | m, _, [] => m
  | m, a, f :: fs => writeFrames (writeWord (writeWord m a f.left) (a + 4) f.right) (a + 8) fs

/-- Where OUTBUF starts (20_memory.md R102). -/
abbrev outbufBase : Nat := 0x10000

/-- The byte OUTBUF holds at an offset: what a PROCESS wrote, otherwise the value fixed for it at reset (10_state.md R75). -/
def outbufByte (c : Cfg) (s : State) (a : Nat) : Byte := (readByte s.outbuf a).getD (c.outbufFill s.resets a)

/-- OUTBUF[i] (00_scope.md R13). -/
def outbufWord (c : Cfg) (s : State) (i : Nat) : Word :=
  outbufByte c s (outbufBase + 4 * i + 3) ++ outbufByte c s (outbufBase + 4 * i + 2) ++
    outbufByte c s (outbufBase + 4 * i + 1) ++ outbufByte c s (outbufBase + 4 * i)

/-! ## One oscillator's registers -/

/-- OSCk_CTRL and OSCk_OFFSET (10_state.md R47, R48). -/
def Controls.osc (r : Controls) : OscId → OscRegs
  | .osc0 => r.osc0
  | .osc1 => r.osc1
  | .osc2 => r.osc2

/-- Replace OSCk_CTRL and OSCk_OFFSET. -/
def Controls.setOsc (r : Controls) (k : OscId) (o : OscRegs) : Controls :=
  match k with
  | .osc0 => { r with osc0 := o }
  | .osc1 => { r with osc1 := o }
  | .osc2 => { r with osc2 := o }

/-- OSCk_PHASE (10_state.md R61). -/
def Phases.get (p : Phases) : OscId → F32
  | .osc0 => p.p0
  | .osc1 => p.p1
  | .osc2 => p.p2

/-- Replace OSCk_PHASE. -/
def Phases.set (p : Phases) (k : OscId) (v : F32) : Phases :=
  match k with
  | .osc0 => { p with p0 := v }
  | .osc1 => { p with p1 := v }
  | .osc2 => { p with p2 := v }

/-- SCRATCH_k (10_state.md R74). -/
def Scratch.get (x : Scratch) : OscId → List Frame
  | .osc0 => x.s0
  | .osc1 => x.s1
  | .osc2 => x.s2

/-- Replace SCRATCH_k. -/
def Scratch.set (x : Scratch) (k : OscId) (v : List Frame) : Scratch :=
  match k with
  | .osc0 => { x with s0 := v }
  | .osc1 => { x with s1 := v }
  | .osc2 => { x with s2 := v }

/-! ## Error events, reset, acceptance -/

/-- The spec's code of an error event (60_exceptions.md R362). -/
def causeCode : Cause → Nat
  | .illegalCommand => 1
  | .busError => 2

/-- An error event: `flag ILL` or `flag BUS_ERR` (00_scope.md R14). It sets the event's sticky bit and changes nothing else
(30_encoding.md R148, 20_memory.md R108, 60_exceptions.md R362). -/
def raiseCause (e : Cause) (s : State) : State :=
  match e with
  | .illegalCommand => { s with ill := true }
  | .busError => { s with busErr := true }

/-- The platform's reset: the state of R400, a running PROCESS abandoned (70_reset_and_hazards.md R390). The outside world's
coming moves are its own and stay; the counters of free values go on, so nothing ties a draw or an unwritten word after the
reset to one before it (log 3, log 4, log 9). -/
def applyReset (s : State) : State :=
  { State.reset with
    inbox := s.inbox, pace := s.pace, noiseDraws := s.noiseDraws, busyReads := s.busyReads, resets := s.resets + 1 }

/-- Stages 0 and 1 of PROCESS: BUSY <- 1 and the snapshot, at one instant (43_engine.md R321, R322). -/
def acceptProcess (frames : Nat) (s : State) : State :=
  { s with progress := some { frames := frames, stage := .clearMix }, snap := s.ctl }

end Sys2Proof.Machine
end

