-- ==== Sys2Proof/Machine/Envelope.lean ====
section
/-! DEFINITION. The envelope generator (41_envelope.md). -/

namespace Sys2Proof.Machine

/-- ENV_RATE, the per-frame rate of a time constant (R222). -/
def envRate (c : Cfg) (t : F32) : F32 := if flt posZero t then fdiv fone (fmul t (sampleRate c)) else instantRate

/-- ENV_SET_RATES, from the snapshot (R223). -/
def envSetRates (c : Cfg) (snap : Controls) (e : Envelope) : Envelope :=
  { e with attackRate := envRate c snap.attackTime, releaseRate := envRate c snap.releaseTime }

/-- ENV_NOTE_ON (R224). -/
def envNoteOn (e : Envelope) : Envelope := { e with state := .attack }

/-- ENV_NOTE_OFF (R225). -/
def envNoteOff (e : Envelope) : Envelope := { e with state := if e.state = .idle then .idle else .release }

/-- ENV_STEP in ATTACK (R227). -/
def envStepAttack (e : Envelope) : Envelope :=
  let v := fadd e.value e.attackRate
  if fle fone v then { e with value := fone, state := .sustain } else { e with value := v }

/-- ENV_STEP in RELEASE (R229). -/
def envStepRelease (e : Envelope) : Envelope :=
  let v := fsub e.value e.releaseRate
  if fle v posZero then { e with value := posZero, state := .idle } else { e with value := v }

/-- ENV_STEP: exactly one step a frame, chosen by the state before it (R226, R228, R230). -/
def envStep (e : Envelope) : Envelope :=
  match e.state with
  | .idle => { e with value := posZero }
  | .attack => envStepAttack e
  | .sustain => { e with value := sustainLevel }
  | .release => envStepRelease e

/-- A frame times a gain, both lanes. -/
def scaleFrame (g : F32) (f : Frame) : Frame := { left := fmul f.left g, right := fmul f.right g }

/-- ENV_APPLY: each frame steps the envelope and is multiplied by the value after the step (R231). -/
def envApply : Envelope → List Frame → List Frame × Envelope
  | e, [] => ([], e)
  | e, f :: fs =>
    let e1 := envStep e
    let rest := envApply e1 fs
    (scaleFrame e1.value f :: rest.1, rest.2)

end Sys2Proof.Machine
end

