-- ==== Sys2Proof/Machine/Filter.lean ====
section
/-! DEFINITION. The biquad low-pass filter and its LFO (42_filter.md). -/

namespace Sys2Proof.Machine

/-! ## Coefficients -/

/-- FILT_RES (R270). -/
def filtRes (res : F32) : F32 := clamp res posZero resMax

/-- FILT_Q of a clamped resonance (R271). -/
def filtQ (r : F32) : F32 := fdiv qNum (fsub fone r)

/-- FILT_OMEGA (R272). -/
def filtOmega (c : Cfg) (cut : F32) : F32 := fdiv (fmul twoPi cut) (sampleRate c)

/-- FILT_ALPHA (R273). -/
def filtAlpha (c : Cfg) (w q : F32) : F32 := fdiv (sinCfg c w) (fmul ftwo q)

/-- FILT_NORM (R273). -/
def filtNorm (alpha : F32) : F32 := fdiv fone (fadd fone alpha)

/-- FILT_COEF (R274). -/
def filtCoef (alpha cw norm : F32) : Coefs where
  a0 := fmul (fmul (fsub fone cw) fhalf) norm
  a1 := fmul (fsub fone cw) norm
  a2 := fmul (fmul (fsub fone cw) fhalf) norm
  b1 := fmul (fmul fminusTwo cw) norm
  b2 := fmul (fsub fone alpha) norm

/-- COEFS(c, res) (R275). -/
def filtCoefs (c : Cfg) (cut res : F32) : Coefs :=
  let w := filtOmega c cut
  let alpha := filtAlpha c w (filtQ (filtRes res))
  filtCoef alpha (cosCfg c w) (filtNorm alpha)

/-! ## LFO and effective cutoff -/

/-- LFO_CUTOFF, the effective cutoff of a frame (R276). -/
def lfoCutoff (c : Cfg) (snap : Controls) (lfoPhase : F32) : F32 :=
  let s := sinCfg c (fmul twoPi lfoPhase)
  clamp (fadd snap.cutoff (fmul (fmul s snap.autoAmount) lfoDepth)) cutoffMin cutoffMax

/-- LFO_INC (R277). -/
def lfoInc (c : Cfg) (snap : Controls) : F32 := fdiv snap.autoFreq (sampleRate c)

/-- The recomputation test of HYSTERESIS (R278). -/
def mustRecompute (ce : F32) (u : FilterUnit) : Bool := !u.coefValid || flt hysteresis (fabs (fsub ce u.lastCutoff))

/-- HYSTERESIS (R278). -/
def filtRecompute (c : Cfg) (res ce : F32) (u : FilterUnit) : FilterUnit :=
  if mustRecompute ce u then { u with coefs := filtCoefs c ce res, lastCutoff := ce, coefValid := true } else u

/-- LFO_ADV (R282). -/
def lfoAdv (linc : F32) (u : FilterUnit) : FilterUnit := { u with lfoPhase := wrap (fadd u.lfoPhase linc) }

/-! ## The biquad -/

/-- The output sample of BIQUAD: five products summed left to right (R279). -/
def biquadOut (k : Coefs) (h : History) (x : F32) : F32 :=
  fsub (fsub (fadd (fadd (fmul k.a0 x) (fmul k.a1 h.x1)) (fmul k.a2 h.x2)) (fmul k.b1 h.y1)) (fmul k.b2 h.y2)

/-- The history BIQUAD leaves (R279). -/
def biquadShift (h : History) (x y : F32) : History := { x1 := x, x2 := h.x1, y1 := y, y2 := h.y1 }

/-- One frame of FILTER_APPLY after the cutoff is settled: left, then right, each with its own history (R279, R280). -/
def filterSample (u : FilterUnit) (f : Frame) : Frame × FilterUnit :=
  let yl := biquadOut u.coefs u.left f.left
  let yr := biquadOut u.coefs u.right f.right
  ({ left := yl, right := yr },
   { u with left := biquadShift u.left f.left yl, right := biquadShift u.right f.right yr })

/-- One frame of FILTER_APPLY (R283): cutoff from the LFO phase before its advance, hysteresis, filtering, LFO advance. -/
def filterFrame (c : Cfg) (snap : Controls) (linc : F32) (u : FilterUnit) (f : Frame) : Frame × FilterUnit :=
  let r := filterSample (filtRecompute c snap.resonance (lfoCutoff c snap u.lfoPhase) u) f
  (r.1, lfoAdv linc r.2)

/-- The frame loop of FILTER_APPLY (R283). -/
def filterFrames (c : Cfg) (snap : Controls) (linc : F32) : FilterUnit → List Frame → List Frame × FilterUnit
  | u, [] => ([], u)
  | u, f :: fs =>
    let r := filterFrame c snap linc u f
    let rest := filterFrames c snap linc r.2 fs
    (r.1 :: rest.1, rest.2)

/-- FILTER_APPLY (R283): the LFO increment is computed once. -/
def filterApply (c : Cfg) (snap : Controls) (u : FilterUnit) (fs : List Frame) : List Frame × FilterUnit :=
  filterFrames c snap (lfoInc c snap) u fs

end Sys2Proof.Machine
end

