-- ==== Sys2Proof/Machine/Oscillator.lean ====
section
/-! DEFINITION. The oscillator unit (40_oscillator.md). -/

namespace Sys2Proof.Machine

/-- OSC_INC, the phase increment of one generation (R181). -/
def oscInc (c : Cfg) (f : F32) : F32 := fdiv f (sampleRate c)

/-- OSC_TRI, the TRIANGLE value at a phase (R182). -/
def oscTri (p : F32) : F32 :=
  if flt p fhalf then fmul (fsub (fmul ffour p) fone) fhalf else fmul (fsub fthree (fmul ffour p)) fhalf

/-- OSC_SAW, the SAW value at a phase (R183). -/
def oscSaw (p : F32) : F32 := fmul (fsub (fmul ftwo p) fone) fhalf

/-- OSC_VALUE (R185): the value of one frame when `draws` noise draws have been made (NOISE makes one draw, R184). -/
def oscValue (c : Cfg) (wave : Wave) (p : F32) (draws : Nat) : F32 :=
  match wave with
  | .triangle => oscTri p
  | .saw => oscSaw p
  | .noise => noiseDraw c draws

/-- How many draws one frame of a waveform makes (R184). -/
def drawsPerFrame : Wave → Nat
  | .triangle => 0
  | .saw => 0
  | .noise => 1

/-- OSC_ADV, the phase advance of one frame (R186). -/
def oscAdv (p inc : F32) : F32 := wrap (fadd p inc)

/-- What one generation leaves: the SCRATCH frames, the phase and the number of draws made so far. -/
structure OscRun where
  frames : List Frame
  phase : F32
  draws : Nat
  deriving DecidableEq, Repr

/-- The frame loop of OSC_GEN: each frame's value comes from the phase before its advance and stands in both words (R187). -/
def oscFrames (c : Cfg) (wave : Wave) (inc : F32) : Nat → F32 → Nat → OscRun
  | 0, p, d => { frames := [], phase := p, draws := d }
  | n + 1, p, d =>
    let v := oscValue c wave p d
    let rest := oscFrames c wave inc n (oscAdv p inc) (d + drawsPerFrame wave)
    { rest with frames := { left := v, right := v } :: rest.frames }

/-- OSC_GEN(k, n, wave, f) from a phase (R187). -/
def oscGen (c : Cfg) (n : Nat) (wave : Wave) (f p : F32) (draws : Nat) : OscRun := oscFrames c wave (oscInc c f) n p draws

end Sys2Proof.Machine
end

