-- ==== Sys2Proof/Machine/Engine.lean ====
section
/-! DEFINITION. The three commands (43_engine.md). A command is taken only when BUSY = 0 (R310): a meaning first lets a running
PROCESS complete, as a held CMD write does (10_state.md R43). -/

namespace Sys2Proof.Machine

/-! ## The stages of PROCESS (R320) -/

/-- The zero frame of the MIX clear. -/
def zeroFrame : Frame := { left := posZero, right := posZero }

/-- The sum of two frames, lane by lane. -/
def addFrame (f g : Frame) : Frame := { left := fadd f.left g.left, right := fadd f.right g.right }

/-- Stage 2: MIX words 0 to 2n−1 <- +0.0 (R323). -/
def stageClearMix (n : Nat) (s : State) : State := { s with mix := List.replicate n zeroFrame }

/-- The generation of oscillator k in stage 3: its effective frequency and OSC_GEN (R324). -/
def oscillatorRun (c : Cfg) (n : Nat) (k : OscId) (s : State) : OscRun :=
  oscGen c n (s.snap.osc k).wave (fadd s.snap.noteFreq (s.snap.osc k).offset) (s.phases.get k) s.noiseDraws

/-- Stage 3 for oscillator k: nothing when it is disabled; otherwise its generation and the accumulation into MIX (R324, R325). -/
def stageOscillator (c : Cfg) (n : Nat) (k : OscId) (s : State) : State :=
  if (s.snap.osc k).en then
    let run := oscillatorRun c n k s
    { s with
      scratch := s.scratch.set k run.frames
      phases := s.phases.set k run.phase
      noiseDraws := run.draws
      mix := List.zipWith addFrame s.mix run.frames }
  else s

/-- Stage 4: ENV_SET_RATES and ENV_APPLY (R326). -/
def stageEnvelope (c : Cfg) (s : State) : State :=
  let r := envApply (envSetRates c s.snap s.env) s.mix
  { s with mix := r.1, env := r.2 }

/-- Stage 5: FILTER_APPLY (R327). -/
def stageFilter (c : Cfg) (s : State) : State :=
  let r := filterApply c s.snap s.filt s.mix
  { s with mix := r.1, filt := r.2 }

/-- The frames of stage 6: MIX times S.VOLUME (R328). -/
def outputFrames (s : State) : List Frame := s.mix.map (scaleFrame s.snap.volume)

/-- Stage 6: OUTBUF words 0 to 2n−1 (R328). -/
def stageScale (s : State) : State := { s with outbuf := writeFrames s.outbuf outbufBase (outputFrames s) }

/-- Stage 7: BUSY <- 0 (R329). -/
def stageComplete (s : State) : State := { s with progress := none }

/-! ## A PROCESS stage by stage (10_state.md R77, 60_exceptions.md R372) -/

/-- The work of one stage. -/
def stageWork (c : Cfg) (p : Progress) (s : State) : State :=
  match p.stage with
  | .clearMix => stageClearMix p.frames s
  | .oscillator k => stageOscillator c p.frames k s
  | .envelope => stageEnvelope c s
  | .filter => stageFilter c s
  | .scale => stageScale s
  | .complete => stageComplete s

/-- The stage that follows (R320). -/
def nextStage : Stage → Option Stage
  | .clearMix => some (.oscillator .osc0)
  | .oscillator .osc0 => some (.oscillator .osc1)
  | .oscillator .osc1 => some (.oscillator .osc2)
  | .oscillator .osc2 => some .envelope
  | .envelope => some .filter
  | .filter => some .scale
  | .scale => some .complete
  | .complete => none

/-- One stage of the running PROCESS; nothing when none runs (R374 of 60_exceptions.md). -/
def runStage (c : Cfg) (s : State) : State :=
  match s.progress with
  | none => s
  | some p =>
    { stageWork c p s with progress := (nextStage p.stage).map (fun st => { frames := p.frames, stage := st }) }

/-- Several stages. -/
def runStages (c : Cfg) : Nat → State → State
  | 0, s => s
  | n + 1, s => runStages c n (runStage c s)

/-- How many stages follow an acceptance (R320, stages 2 to 7 with three oscillators). -/
abbrev stageCount : Nat := 8

/-- Wait until BUSY = 0: the running PROCESS, if any, completes (20_memory.md R112, 70_reset_and_hazards.md R410, R421). -/
def awaitIdle (c : Cfg) (s : State) : State := runStages c stageCount s

/-! ## The commands -/

/-- PROCESS(n) as R320 writes it, stage 0 to stage 7. -/
def processWhole (c : Cfg) (n : Nat) (s : State) : State :=
  let s := acceptProcess n s
  let s := stageClearMix n s
  let s := stageOscillator c n .osc0 s
  let s := stageOscillator c n .osc1 s
  let s := stageOscillator c n .osc2 s
  let s := stageEnvelope c s
  let s := stageFilter c s
  let s := stageScale s
  stageComplete s

/-- NOTE_FREQ_OF(octave, n) (R311). -/
def noteFreqOf (c : Cfg) (octave : Word) (n : Int) : F32 :=
  fmul baseFreq (exp2Cfg c (fadd (toF32 octave.toInt) (fdiv (toF32 n) semitones)))

/-- NOTE_ON(n) in an idle block (R312). -/
def noteOnEffect (c : Cfg) (n : Int) (s : State) : State :=
  { s with
    ctl := { s.ctl with noteFreq := noteFreqOf c s.ctl.octave n, noteOn := true }
    env := envNoteOn s.env }

/-- NOTE_OFF in an idle block (R316). -/
def noteOffEffect (s : State) : State :=
  { s with ctl := { s.ctl with noteOn := false }, env := envNoteOff s.env }

/-- A word that decodes to ILLEGAL: ILL is set, nothing else changes (30_encoding.md R148). -/
def rejectCommand (s : State) : State := raiseCause .illegalCommand s

/-- NOTE_ON n (R312). -/
def execNoteOn (note : Int) (s : State) : Host.Outcome State Fault Refusal :=
  .next (noteOnEffect Config.machine note (awaitIdle Config.machine s))

/-- NOTE_OFF (R316). -/
def execNoteOff (s : State) : Host.Outcome State Fault Refusal := .next (noteOffEffect (awaitIdle Config.machine s))

/-- PROCESS n (R320). -/
def execProcess (frames : Nat) (s : State) : Host.Outcome State Fault Refusal :=
  .next (processWhole Config.machine frames (awaitIdle Config.machine s))

end Sys2Proof.Machine
end

