-- ==== Sys2Proof/Machine/Dispatch.lean ====
section
/-! DEFINITION. The meaning of each command, by one call each (30_encoding.md R142). -/

namespace Sys2Proof.Machine

def exec (i : Instr) (s : State) : Host.Outcome State Fault Refusal :=
  match i with
  | .noteOn note => Sys2Proof.Machine.execNoteOn note s
  | .noteOff => Sys2Proof.Machine.execNoteOff s
  | .process frames => Sys2Proof.Machine.execProcess frames s

end Sys2Proof.Machine
end

