-- ==== Sys2Proof/Machine/Operands.lean ====
section
/-! DEFINITION. The fields and operands of a command word (30_encoding.md R141, R146). -/

namespace Sys2Proof.Machine

/-- OPC, bits 31:24 (R141). -/
def opcField (w : Word) : BitVec 8 := w.extractLsb' 24 8

/-- ARG, bits 23:0 (R141). -/
def argField (w : Word) : BitVec 24 := w.extractLsb' 0 24

/-- Bits 23:16, reserved in NOTE_ON (R143). -/
def noteReserved (w : Word) : BitVec 8 := w.extractLsb' 16 8

/-- `noteIndex = sext_32(w[15:0])`, a signed integer (R146). -/
def noteOperand (w : Word) : Int := ((w.extractLsb' 0 16).signExtend 32).toInt

/-- `n = zext_32(w[23:0])`, an unsigned integer (R146). -/
def framesOperand (w : Word) : Nat := ((argField w).setWidth 32).toNat

end Sys2Proof.Machine
end

