-- ==== Sys2Proof/WellFormed.lean ====
section
/-! DEFINITION. Which commands have an encoding: the semitone index fits 16 bits signed (30_encoding.md R143), the frame count is
at most P_MAX_FRAMES (R145). -/

namespace Sys2Proof

/-- The checks of R143 and R145 under a choice `c` of the parameters. -/
def Instr.wfWith (c : Cfg) : Instr → Bool
  | .noteOn note => decide (-32768 ≤ note) && decide (note ≤ 32767)
  | .noteOff => true
  | .process frames => decide (frames ≤ Machine.maxFrames c)

/-- The checks under the block's own parameters. -/
abbrev Instr.wf (i : Instr) : Bool := i.wfWith Config.machine

end Sys2Proof
end

