-- ==== Sys2Proof/Decode.lean ====
section
/-! DEFINITION. The decoder, total on every 32-bit word (30_encoding.md R147), and the encoder (R143 to R145). The frame limit
P_MAX_FRAMES is a parameter, so both decoders of a choice `c` and the block's own one stand here. -/

namespace Sys2Proof

/-- Why a word is ILLEGAL (R148). -/
inductive Illegal where
  /-- OPC is 0x00 or 0x04 to 0xFF (R142, R149). -/
  | reservedOpcode (opc : BitVec 8)
  /-- NOTE_ON with bits 23:16 not zero (R143). -/
  | noteOnReservedBits
  /-- NOTE_OFF with bits 23:0 not zero (R144). -/
  | noteOffReservedBits
  /-- PROCESS with NFRAMES > P_MAX_FRAMES (R145). -/
  | tooManyFrames (frames : Nat)
  deriving DecidableEq, Repr

/-- `decode(w)` of R147, under a choice `c` of the parameters. -/
def decodeWith (c : Cfg) (w : Word) : Except Illegal Instr :=
  if Machine.opcField w = 0x01#8 then
    if Machine.noteReserved w = 0 then .ok (.noteOn (Machine.noteOperand w)) else .error .noteOnReservedBits
  else if Machine.opcField w = 0x02#8 then
    if Machine.argField w = 0 then .ok .noteOff else .error .noteOffReservedBits
  else if Machine.opcField w = 0x03#8 then
    if Machine.maxFrames c < Machine.framesOperand w then .error (.tooManyFrames (Machine.framesOperand w))
    else .ok (.process (Machine.framesOperand w))
  else .error (.reservedOpcode (Machine.opcField w))

/-- The block's decoder. -/
def decode (w : Word) : Except Illegal Instr := decodeWith Config.machine w

/-- The command read from the bits of a word as spec/opcode_table.json numbers them (`nbits` of them; a command has 32). -/
def decodeTableWord (nbits w : Nat) : Option Instr := (decode (BitVec.ofNat 32 (w % 2 ^ nbits))).toOption

/-- The word of a command: OPC above ARG, the reserved bits zero (R143 to R145). -/
def encode : Instr → Word
  | .noteOn note => 0x01#8 ++ 0x00#8 ++ BitVec.ofInt 16 note
  | .noteOff => 0x02#8 ++ 0x000000#24
  | .process frames => 0x03#8 ++ BitVec.ofNat 24 frames

end Sys2Proof
end

