-- ==== Sys2Proof/Machine/Flags.lean ====
section
/-! DEFINITION. The block's flags (10_state.md R45): the STATUS register (R44) and the codes of the enumerated fields
(30_encoding.md R150). -/

namespace Sys2Proof.Machine

/-- A flag as bit 0 of a word. -/
def flagBit (b : Bool) : Word := if b then 1#32 else 0#32

/-- STATUS as the host reads it: BUSY bit 0, ILL bit 1, BUS_ERR bit 2, COEF_VALID bit 3, bits 31:4 zero (R44). -/
def statusWord (s : State) : Word :=
  flagBit s.busy ||| (flagBit s.ill <<< 1) ||| (flagBit s.busErr <<< 2) ||| (flagBit s.filt.coefValid <<< 3)

/-- A host write to STATUS: bit 1 set clears ILL, bit 2 set clears BUS_ERR, the other bits are ignored (R44). -/
def writeStatus (v : Word) (s : State) : State :=
  { s with ill := s.ill && !v.getLsbD 1, busErr := s.busErr && !v.getLsbD 2 }

/-- The code of ENV_STATE.STATE (10_state.md R63). -/
def envCode : EnvState → Word
  | .idle => 0#32
  | .attack => 1#32
  | .sustain => 2#32
  | .release => 3#32

/-- The code of OSCk_CTRL.WAVE (10_state.md R47). -/
def waveCode : Wave → Word
  | .triangle => 0#32
  | .saw => 1#32
  | .noise => 2#32

/-- The waveform of a code; 3 is illegal (10_state.md R47). -/
def waveOfCode (v : BitVec 2) : Option Wave :=
  if v = 0#2 then some .triangle else if v = 1#2 then some .saw else if v = 2#2 then some .noise else none

/-- OSCk_CTRL as the host reads it: EN bit 0, WAVE bits 2:1, bits 31:3 zero (10_state.md R47). -/
def oscCtrlWord (o : OscRegs) : Word := flagBit o.en ||| (waveCode o.wave <<< 1)

/-- A host write to OSCk_CTRL: EN from bit 0; WAVE from bits 2:1 unless they are 3 (WARL); the rest ignored (10_state.md R47). -/
def writeOscCtrl (v : Word) (o : OscRegs) : OscRegs :=
  { o with en := v.getLsbD 0, wave := (waveOfCode (v.extractLsb' 1 2)).getD o.wave }

end Sys2Proof.Machine
end

