-- ==== Sys2Proof/Machine/Registers.lean ====
section
/-! DEFINITION. The register window map (20_memory.md R101): names, offsets, what a host read of each register returns and what a
host write does to it (10_state.md R42 to R70). -/

namespace Sys2Proof.Machine

/-- The registers of the map, by the names of R101. -/
inductive Reg where
  | cmd | status
  | osc0Ctrl | osc0Offset | osc1Ctrl | osc1Offset | osc2Ctrl | osc2Offset
  | attackTime | releaseTime | cutoff | resonance | autoAmount | autoFreq | volume | octave | noteFreq | noteOn
  | osc0Phase | osc1Phase | osc2Phase | lfoPhase
  | envState | envValue | envAttackRate | envReleaseRate
  | filtLastCutoff | filtA0 | filtA1 | filtA2 | filtB1 | filtB2
  | hlX1 | hlX2 | hlY1 | hlY2 | hrX1 | hrX2 | hrY1 | hrY2
  deriving DecidableEq, Repr

/-- CMD, STATUS and the oscillators' control registers. -/
def commandRegs : List Reg :=
  [.cmd, .status, .osc0Ctrl, .osc0Offset, .osc1Ctrl, .osc1Offset, .osc2Ctrl, .osc2Offset]

/-- The other control registers. -/
def controlRegs : List Reg :=
  [.attackTime, .releaseTime, .cutoff, .resonance, .autoAmount, .autoFreq, .volume, .octave, .noteFreq, .noteOn]

/-- The phases and the envelope. -/
def stateRegs : List Reg :=
  [.osc0Phase, .osc1Phase, .osc2Phase, .lfoPhase, .envState, .envValue, .envAttackRate, .envReleaseRate]

/-- The filter's cutoff and coefficients. -/
def filterRegs : List Reg :=
  [.filtLastCutoff, .filtA0, .filtA1, .filtA2, .filtB1, .filtB2]

/-- The filter's histories. -/
def historyRegs : List Reg :=
  [.hlX1, .hlX2, .hlY1, .hlY2, .hrX1, .hrX2, .hrY1, .hrY2]

/-- Every register, in the order of the map. -/
def allRegs : List Reg := commandRegs ++ controlRegs ++ stateRegs ++ filterRegs ++ historyRegs

/-- The offset of a register (R101). -/
def regOffset : Reg → Offset
  | .cmd => 0x000#17
  | .status => 0x004#17
  | .osc0Ctrl => 0x010#17
  | .osc0Offset => 0x014#17
  | .osc1Ctrl => 0x018#17
  | .osc1Offset => 0x01C#17
  | .osc2Ctrl => 0x020#17
  | .osc2Offset => 0x024#17
  | .attackTime => 0x030#17
  | .releaseTime => 0x034#17
  | .cutoff => 0x038#17
  | .resonance => 0x03C#17
  | .autoAmount => 0x040#17
  | .autoFreq => 0x044#17
  | .volume => 0x048#17
  | .octave => 0x04C#17
  | .noteFreq => 0x050#17
  | .noteOn => 0x054#17
  | .osc0Phase => 0x080#17
  | .osc1Phase => 0x084#17
  | .osc2Phase => 0x088#17
  | .lfoPhase => 0x08C#17
  | .envState => 0x090#17
  | .envValue => 0x094#17
  | .envAttackRate => 0x098#17
  | .envReleaseRate => 0x09C#17
  | .filtLastCutoff => 0x0A0#17
  | .filtA0 => 0x0A4#17
  | .filtA1 => 0x0A8#17
  | .filtA2 => 0x0AC#17
  | .filtB1 => 0x0B0#17
  | .filtB2 => 0x0B4#17
  | .hlX1 => 0x0C0#17
  | .hlX2 => 0x0C4#17
  | .hlY1 => 0x0C8#17
  | .hlY2 => 0x0CC#17
  | .hrX1 => 0x0D0#17
  | .hrX2 => 0x0D4#17
  | .hrY1 => 0x0D8#17
  | .hrY2 => 0x0DC#17

/-- The register at an offset, if there is one. -/
def regAt (off : Offset) : Option Reg := allRegs.find? (fun r => regOffset r == off)

/-- The observation registers, RO views of the persistent engine state (10_state.md R61 to R70). -/
def isObservation : Reg → Bool
  | .osc0Phase | .osc1Phase | .osc2Phase | .lfoPhase | .envState | .envValue | .envAttackRate | .envReleaseRate => true
  | .filtLastCutoff | .filtA0 | .filtA1 | .filtA2 | .filtB1 | .filtB2 => true
  | .hlX1 | .hlX2 | .hlY1 | .hlY2 | .hrX1 | .hrX2 | .hrY1 | .hrY2 => true
  | .cmd | .status | .osc0Ctrl | .osc0Offset | .osc1Ctrl | .osc1Offset | .osc2Ctrl | .osc2Offset => false
  | .attackTime | .releaseTime | .cutoff | .resonance | .autoAmount | .autoFreq | .volume => false
  | .octave | .noteFreq | .noteOn => false

/-- The control registers, RW for the host (10_state.md R46 to R58). -/
def isControl (r : Reg) : Bool := !isObservation r && r != .cmd && r != .status

/-- What a register holds, with its RAZ bits as 0 (20_memory.md R111); CMD is WO and reads 0 (10_state.md R43). -/
def regValue (s : State) : Reg → Word
  | .cmd => 0#32
  | .status => statusWord s
  | .osc0Ctrl => oscCtrlWord s.ctl.osc0
  | .osc0Offset => s.ctl.osc0.offset
  | .osc1Ctrl => oscCtrlWord s.ctl.osc1
  | .osc1Offset => s.ctl.osc1.offset
  | .osc2Ctrl => oscCtrlWord s.ctl.osc2
  | .osc2Offset => s.ctl.osc2.offset
  | .attackTime => s.ctl.attackTime
  | .releaseTime => s.ctl.releaseTime
  | .cutoff => s.ctl.cutoff
  | .resonance => s.ctl.resonance
  | .autoAmount => s.ctl.autoAmount
  | .autoFreq => s.ctl.autoFreq
  | .volume => s.ctl.volume
  | .octave => s.ctl.octave
  | .noteFreq => s.ctl.noteFreq
  | .noteOn => flagBit s.ctl.noteOn
  | .osc0Phase => s.phases.p0
  | .osc1Phase => s.phases.p1
  | .osc2Phase => s.phases.p2
  | .lfoPhase => s.filt.lfoPhase
  | .envState => envCode s.env.state
  | .envValue => s.env.value
  | .envAttackRate => s.env.attackRate
  | .envReleaseRate => s.env.releaseRate
  | .filtLastCutoff => s.filt.lastCutoff
  | .filtA0 => s.filt.coefs.a0
  | .filtA1 => s.filt.coefs.a1
  | .filtA2 => s.filt.coefs.a2
  | .filtB1 => s.filt.coefs.b1
  | .filtB2 => s.filt.coefs.b2
  | .hlX1 => s.filt.left.x1
  | .hlX2 => s.filt.left.x2
  | .hlY1 => s.filt.left.y1
  | .hlY2 => s.filt.left.y2
  | .hrX1 => s.filt.right.x1
  | .hrX2 => s.filt.right.x2
  | .hrY1 => s.filt.right.y1
  | .hrY2 => s.filt.right.y2

/-- A host write to a control register (20_memory.md R112). Every other register ignores it: the observation registers are RO,
and CMD and STATUS have their own cases in R112. -/
def writeControl (r : Reg) (v : Word) (k : Controls) : Controls :=
  match r with
  | .osc0Ctrl => { k with osc0 := writeOscCtrl v k.osc0 }
  | .osc0Offset => { k with osc0 := { k.osc0 with offset := v } }
  | .osc1Ctrl => { k with osc1 := writeOscCtrl v k.osc1 }
  | .osc1Offset => { k with osc1 := { k.osc1 with offset := v } }
  | .osc2Ctrl => { k with osc2 := writeOscCtrl v k.osc2 }
  | .osc2Offset => { k with osc2 := { k.osc2 with offset := v } }
  | .attackTime => { k with attackTime := v }
  | .releaseTime => { k with releaseTime := v }
  | .cutoff => { k with cutoff := v }
  | .resonance => { k with resonance := v }
  | .autoAmount => { k with autoAmount := v }
  | .autoFreq => { k with autoFreq := v }
  | .volume => { k with volume := v }
  | .octave => { k with octave := v }
  | .noteFreq => { k with noteFreq := v }
  | .noteOn => { k with noteOn := v.getLsbD 0 }
  | .cmd | .status => k
  | .osc0Phase | .osc1Phase | .osc2Phase | .lfoPhase | .envState | .envValue | .envAttackRate | .envReleaseRate => k
  | .filtLastCutoff | .filtA0 | .filtA1 | .filtA2 | .filtB1 | .filtB2 => k
  | .hlX1 | .hlX2 | .hlY1 | .hlY2 | .hrX1 | .hrX2 | .hrY1 | .hrY2 => k

/-- A host write to a register other than CMD (20_memory.md R112, 10_state.md R59): STATUS by W1C, a control register by its
fields, a RO register not at all. -/
def writeReg (r : Reg) (v : Word) (s : State) : State :=
  match r with
  | .status => writeStatus v s
  | _ => { s with ctl := writeControl r v s.ctl }

end Sys2Proof.Machine
end

