-- ==== Sys2Proof/Machine/Bus.lean ====
section
/-! DEFINITION. The host bus (20_memory.md R100 to R112): where an offset leads, and what a read and a write do. A full, aligned
write to CMD submits a command; Machine/Fetch.lean takes it. -/

namespace Sys2Proof.Machine

/-- What a legal access reaches. -/
inductive Location where
  /-- A register of the map (R101). -/
  | reg (r : Reg)
  /-- OUTBUF[i] (R102). -/
  | outbuf (i : Nat)
  deriving DecidableEq, Repr

/-- The location a legal access reaches; none for an access of the wrong size, a misaligned one and one to a reserved offset
(R101, R102, R106 to R108). -/
def locate (c : Cfg) (off : Offset) (size : AccessSize) : Option Location :=
  if size != .word || decide (off.toNat % 4 ≠ 0) then none
  else if off.toNat < outbufBase then (regAt off).map .reg
  else if off.toNat < outbufBase + 8 * maxFrames c then some (.outbuf ((off.toNat - outbufBase) / 4))
  else none

/-- Locations whose reads during BUSY are undefined (10_state.md R71, R75). -/
def Location.undefinedWhileBusy : Location → Bool
  | .reg r => isObservation r
  | .outbuf _ => true

/-- The word a location holds (R111). -/
def locationValue (c : Cfg) (s : State) : Location → Word
  | .reg r => regValue s r
  | .outbuf i => outbufWord c s i

/-- MemRead(off, size) (R111): the value goes to the host. During BUSY an observation register or OUTBUF gives any value, afresh
for each read. No read changes anything else but BUS_ERR on a bad access (R108, R110). -/
def busRead (c : Cfg) (off : Offset) (size : AccessSize) (s : State) : State :=
  match locate c off size with
  | none => { raiseCause .busError s with lastRead := some 0#32 }
  | some loc =>
    if loc.undefinedWhileBusy && s.busy then
      { s with lastRead := some (c.busyRead s.busyReads), busyReads := s.busyReads + 1 }
    else { s with lastRead := some (locationValue c s loc) }

/-- The location a legal write reaches: as `locate`, and every byte enable must be on (R108). -/
def locateWrite (c : Cfg) (off : Offset) (size : AccessSize) (lanes : BitVec 4) : Option Location :=
  if lanes = 0xF#4 then locate c off size else none

/-- MemWrite(off, size, v) but for the submission of a command (R112): OUTBUF and RO registers ignore it. -/
def busWrite (c : Cfg) (off : Offset) (size : AccessSize) (lanes : BitVec 4) (v : Word) (s : State) : State :=
  match locateWrite c off size lanes with
  | none => raiseCause .busError s
  | some (.reg r) => writeReg r v s
  | some (.outbuf _) => s

/-- The command word an access submits: only a legal write to CMD submits one (10_state.md R43, 60_exceptions.md R364). -/
def submittedWord (c : Cfg) : Access → Option Word
  | .read _ _ => none
  | .write off size lanes v => if locateWrite c off size lanes = some (.reg .cmd) then some v else none

/-- An access that submits no command. -/
def busAccess (c : Cfg) (a : Access) (s : State) : State :=
  match a with
  | .read off size => busRead c off size s
  | .write off size lanes v => busWrite c off size lanes v s

end Sys2Proof.Machine
end

