-- ==== Sys2Proof/Machine/Fetch.lean ====
section
/-! DEFINITION. The next move (60_exceptions.md R372): the block has no program counter (10_state.md R41), so the "instruction
fetch" is taking the command word of a CMD write at the head of the outside world's moves. -/

namespace Sys2Proof.Machine

/-- The bus access that writes a word to CMD (10_state.md R43). -/
def cmdWrite (w : Word) : Access := .write (regOffset .cmd) .word 0xF#4 w

/-- A command word that the engine takes (30_encoding.md R140, R147, R148). At the staged pace a PROCESS is only accepted here. -/
def takeCommand (w : Word) (s : State) : Fetched :=
  match decode w with
  | .error _ => .moved (rejectCommand (awaitIdle Config.machine s))
  | .ok i =>
    match s.pace, i with
    | .staged, .process n => .moved (acceptProcess n s)
    | _, _ => .command i s

/-- A CMD write at the head of the moves. At the staged pace it is held while BUSY: the engine runs one stage and the write stays
(10_state.md R43, 70_reset_and_hazards.md R410); at the whole pace the hold is inside the step (`awaitIdle`). -/
def fetchCommand (w : Word) (rest : List HostMove) (s : State) : Fetched :=
  if s.busy && decide (s.pace = .staged) then .moved (runStage Config.machine s)
  else takeCommand w { s with inbox := rest }

/-- One turn of WAIT_IDLE (30_encoding.md R151): read STATUS; when bit 0 is 0 go on, otherwise poll again, and the engine has had
one stage's time in between (log 6). -/
def pollIdle (rest : List HostMove) (s : State) : State :=
  let r := busRead Config.machine (regOffset .status) .word s
  if s.busy then runStage Config.machine r else { r with inbox := rest }

/-- The next move. With none left the engine goes on with a running PROCESS (70_reset_and_hazards.md R421), and an idle block
keeps its state (60_exceptions.md R374). -/
def fetch (s : State) : Fetched :=
  match s.inbox with
  | [] => .moved (runStage Config.machine s)
  | .reset :: rest => .moved (applyReset { s with inbox := rest })
  | .engine :: rest => .moved (runStage Config.machine { s with inbox := rest })
  | .waitIdle :: rest => .moved (pollIdle rest s)
  | .access a :: rest =>
    match submittedWord Config.machine a with
    | some w => fetchCommand w rest s
    | none => .moved (busAccess Config.machine a { s with inbox := rest })

/-- The state in which a word is the next command: its CMD write stands first, and the pace is whole, so that the very next step
takes it and runs it (log 5). -/
def placeCommand (w : Word) (s : State) : State :=
  { s with inbox := .access (cmdWrite w) :: s.inbox, pace := .whole }

end Sys2Proof.Machine
end

