-- ==== Sys2Proof/Machine/Step.lean ====
section
/-! DEFINITION. One step: the next move is fetched, and a command that the engine takes is executed. -/

namespace Sys2Proof.Machine

/-- One step of the block. -/
def step (s : State) : Host.Outcome State Fault Refusal :=
  match fetch s with
  | .moved t => .next t
  | .command i t => exec i t

/-- The state with a command of `nbits` bits (numbered as spec/opcode_table.json numbers them) where `step` takes its next one. -/
def State.withFetchWord (s : State) (nbits w : Nat) : State := placeCommand (BitVec.ofNat 32 (w % 2 ^ nbits)) s

end Sys2Proof.Machine
end

