-- ==== Sys2Proof/Safety.lean ====
section
/-! DEFINITION. What counts as a good state, in the terms the claims use: the register invariants of 10_state.md R78, the form of
OUTBUF, and the equality of the two channels (42_filter.md R292). -/

namespace Sys2Proof.Machine

/-! ## Ranges of binary32 patterns -/

/-- A value in [+0.0, 1.0): not −0.0, not NaN. -/
abbrev InUnit (x : F32) : Prop := x.toNat < 0x3F800000

/-- A value in [+0.0, 1.0]. -/
abbrev InUnitClosed (x : F32) : Prop := x.toNat ≤ 0x3F800000

/-- A value in [+0.0, +inf]. -/
abbrev NonNegative (x : F32) : Prop := x.toNat ≤ 0x7F800000

/-- A value in [20.0, 20000.0]. -/
abbrev InCutoffRange (x : F32) : Prop := 0x41A00000 ≤ x.toNat ∧ x.toNat ≤ 0x469C4000

/-- A finite value of magnitude at most the one with pattern `m`. -/
abbrev AtMost (m : Nat) (x : F32) : Prop := fmag x ≤ m

/-! ## Offsets and words -/

/-- An offset of the window that the map reserves (20_memory.md R101, R102). -/
def ReservedOffset (c : Cfg) (off : Offset) : Prop :=
  (∀ r, regOffset r ≠ off) ∧ ¬ (0x10000 ≤ off.toNat ∧ off.toNat < 0x10000 + 8 * maxFrames c)

/-- A word that decodes to ILLEGAL, by the cases 30_encoding.md R148 lists. -/
def IllegalWord (c : Cfg) (w : Word) : Prop :=
  (w.extractLsb' 24 8 ≠ 1#8 ∧ w.extractLsb' 24 8 ≠ 2#8 ∧ w.extractLsb' 24 8 ≠ 3#8) ∨
  (w.extractLsb' 24 8 = 1#8 ∧ w.extractLsb' 16 8 ≠ 0#8) ∨
  (w.extractLsb' 24 8 = 2#8 ∧ w.extractLsb' 0 24 ≠ 0#24) ∨
  (w.extractLsb' 24 8 = 3#8 ∧ maxFrames c < (w.extractLsb' 0 24).toNat)

/-! ## Register invariants (10_state.md R78) -/

/-- The envelope's part of R78. -/
structure EnvelopeOk (e : Envelope) : Prop where
  value : InUnitClosed e.value
  idle : e.state = .idle → e.value = posZero
  attackRate : NonNegative e.attackRate
  releaseRate : NonNegative e.releaseRate

/-- The invariants of R78. -/
structure RegistersOk (s : State) : Prop where
  phases : ∀ k, InUnit (s.phases.get k)
  lfoPhase : InUnit s.filt.lfoPhase
  env : EnvelopeOk s.env
  lastCutoff : s.filt.lastCutoff = posZero ∨ InCutoffRange s.filt.lastCutoff

/-! ## OUTBUF and command progress -/

/-- OUTBUF is in canonical form and lists only offsets of its window (20_memory.md R102); a running PROCESS has a legal frame
count, and MIX has that many frames once it is cleared. -/
structure OutbufOk (c : Cfg) (s : State) : Prop where
  form : Memory.wf s.outbuf = true
  window : ∀ cell ∈ s.outbuf, outbufBase ≤ cell.1 ∧ cell.1 < outbufBase + 8 * maxFrames c
  frames : ∀ p, s.progress = some p → p.frames ≤ maxFrames c
  mix : ∀ p, s.progress = some p → p.stage ≠ .clearMix → s.mix.length = p.frames

/-! ## The two channels (R292, 43_engine.md R333) -/

/-- Both lanes of a frame hold the same pattern. -/
abbrev LanesEqual (f : Frame) : Prop := f.left = f.right

/-- The two histories are equal, and so are the lanes of every frame in MIX. -/
structure ChannelsEqual (s : State) : Prop where
  history : s.filt.left = s.filt.right
  mix : ∀ f ∈ s.mix, LanesEqual f

/-! ## Filter conditions of the silence claims (43_engine.md R331, 42_filter.md R273, 93_implementation_defined.md I7) -/

/-- A configuration whose sine is not negative at the angular cutoff of any effective cutoff, as every one close to the true
sine is (R273): a property of the configuration, not of the block. -/
def SineNonNegative (c : Cfg) : Prop := ∀ cut, InCutoffRange cut → fle posZero (sinCfg c (filtOmega c cut)) = true

/-- Coefficients that are finite, the three input ones not negative. -/
structure CoefsOk (k : Coefs) : Prop where
  a0 : k.a0.toNat < 0x7F800000
  a1 : k.a1.toNat < 0x7F800000
  a2 : k.a2.toNat < 0x7F800000
  b1 : isFinite k.b1 = true
  b2 : isFinite k.b2 = true

/-- A history of zeros of either sign. -/
abbrev History.IsZero (h : History) : Prop := fmag h.x1 = 0 ∧ fmag h.x2 = 0 ∧ fmag h.y1 = 0 ∧ fmag h.y2 = 0

end Sys2Proof.Machine
end

