-- ==== Sys2Proof/Certificates/Slice0/Obligations.lean ====
section
/-! DEFINITION. The statements for the provers. Each docstring names the rules of spec/ it rests on. -/

open Sys2Proof Sys2Proof.Machine

/-! ## Encoding -/

/-- R143 to R147: a well-formed command is read back from its own word, with every operand, for every choice of P_MAX_FRAMES. -/
def Obligations.DecodeOfEncodeIsTheCommand : Prop :=
  ∀ (c : Cfg) (i : Instr), i.wfWith c = true → decodeWith c (encode i) = .ok i

/-- R143 to R147: a word that decodes to a command is that command's own word, and the command is well-formed. -/
def Obligations.EncodeOfDecodeIsTheWord : Prop :=
  ∀ (c : Cfg) (w : Word) (i : Instr), decodeWith c w = .ok i → i.wfWith c = true ∧ encode i = w

/-- R152, whole: the words the spec writes out, and the four that are ILLEGAL for every P_MAX_FRAMES. -/
def Obligations.WrittenOutWordsMeanTheirCommands : Prop :=
  encode (.noteOn 0) = 0x01000000#32 ∧ encode (.noteOn 12) = 0x0100000C#32 ∧ encode (.noteOn (-1)) = 0x0100FFFF#32 ∧
  encode (.noteOn (-12)) = 0x0100FFF4#32 ∧ encode .noteOff = 0x02000000#32 ∧ encode (.process 8) = 0x03000008#32 ∧
  encode (.process 0) = 0x03000000#32 ∧
  (∀ c : Cfg,
    decodeWith c 0x01000000#32 = .ok (.noteOn 0) ∧ decodeWith c 0x0100000C#32 = .ok (.noteOn 12) ∧
    decodeWith c 0x0100FFFF#32 = .ok (.noteOn (-1)) ∧ decodeWith c 0x0100FFF4#32 = .ok (.noteOn (-12)) ∧
    decodeWith c 0x02000000#32 = .ok .noteOff ∧ decodeWith c 0x03000000#32 = .ok (.process 0) ∧
    (∃ e, decodeWith c 0x00000000#32 = .error e) ∧ (∃ e, decodeWith c 0x04000000#32 = .error e) ∧
    (∃ e, decodeWith c 0x01010000#32 = .error e) ∧ (∃ e, decodeWith c 0x02000001#32 = .error e)) ∧
  (∀ c : Cfg, maxFrames c = 256 →
    encode (.process 256) = 0x03000100#32 ∧ decodeWith c 0x03000008#32 = .ok (.process 8) ∧
    decodeWith c 0x03000100#32 = .ok (.process 256) ∧ ∃ e, decodeWith c 0x03000101#32 = .error e)

/-- R142 to R149: exactly the words R148 lists are ILLEGAL. -/
def Obligations.ExactlyTheListedWordsAreIllegal : Prop :=
  ∀ (c : Cfg) (w : Word), (∃ e, decodeWith c w = .error e) ↔ IllegalWord c w

/-! ## One step -/

/-- R43, R140, R310: when the next access submits a word that decodes to a command, the step is `exec` of that command with the
access done, at the whole pace in every state, at the staged pace when BUSY = 0 and the command is no PROCESS. The state made
by `withFetchWord` is such a state. -/
def Obligations.StepRunsTheDecodedCommand : Prop :=
  (∀ (s : State) (a : Access) (rest : List HostMove) (w : Word) (i : Instr),
    s.inbox = .access a :: rest → submittedWord Config.machine a = some w → decode w = .ok i →
    (s.pace = .whole ∨ (s.busy = false ∧ ∀ n, i ≠ .process n)) → step s = exec i { s with inbox := rest }) ∧
  (∀ (s : State) (w : Nat) (i : Instr), decodeTableWord 32 w = some i →
    step (s.withFetchWord 32 w) = exec i { s with pace := .whole })

/-- R321, R322, R60, R77: at the staged pace a PROCESS is accepted in one step: BUSY becomes 1, the snapshot holds the control
registers of that moment, the frame count is kept, the access is done, and nothing else changes. -/
def Obligations.StagedProcessIsAcceptedWithItsSnapshot : Prop :=
  ∀ (s : State) (a : Access) (rest : List HostMove) (w : Word) (n : Nat),
    s.inbox = .access a :: rest → submittedWord Config.machine a = some w → decode w = .ok (.process n) →
    s.pace = .staged → s.busy = false →
    ∃ t, step s = .next t ∧ t.busy = true ∧
      t = { s with inbox := rest, snap := s.ctl, progress := some { frames := n, stage := .clearMix } }

/-- R43, R410, R421: a CMD write during BUSY is held: the access stays first, the engine runs on, and within eight steps the
PROCESS has completed with the write still first; so it is not lost. -/
def Obligations.HeldCommandWaitsUntilTheProcessCompletes : Prop :=
  ∀ (s : State) (a : Access) (rest : List HostMove) (w : Word),
    s.inbox = .access a :: rest → submittedWord Config.machine a = some w → s.pace = .staged → s.busy = true →
    (∃ t, step s = .next t ∧ t.inbox = s.inbox) ∧
    ∃ k t, k ≤ 8 ∧ Host.Core.run core k s = .next t ∧ t.busy = false ∧ t.inbox = s.inbox ∧ t = awaitIdle Config.machine s

/-- R148, whole: each word the rule lists sets ILL and changes no other state; BUSY is not set and the write completes. -/
def Obligations.IllegalWordSetsOnlyIll : Prop :=
  ∀ (s : State) (a : Access) (rest : List HostMove) (w : Word),
    s.inbox = .access a :: rest → submittedWord Config.machine a = some w → s.busy = false →
    IllegalWord Config.machine w → step s = .next { s with inbox := rest, ill := true }

/-- R108, R364: a wrong size, a misaligned or a reserved offset, or a write with byte enables off, sets BUS_ERR; the read returns
0, the write changes nothing, and a bad access to CMD submits nothing. Wrong-direction accesses are no error. -/
def Obligations.BadAccessSetsOnlyBusErr : Prop :=
  (∀ (s : State) (rest : List HostMove) (off : Offset) (size : AccessSize),
    (size ≠ .word ∨ off.toNat % 4 ≠ 0 ∨ ReservedOffset Config.machine off) →
    s.inbox = .access (.read off size) :: rest →
    step s = .next { s with inbox := rest, busErr := true, lastRead := some 0#32 }) ∧
  (∀ (s : State) (rest : List HostMove) (off : Offset) (size : AccessSize) (lanes : BitVec 4) (v : Word),
    (size ≠ .word ∨ off.toNat % 4 ≠ 0 ∨ ReservedOffset Config.machine off ∨ lanes ≠ 0xF#4) →
    s.inbox = .access (.write off size lanes v) :: rest → step s = .next { s with inbox := rest, busErr := true }) ∧
  (∀ (s : State) (rest : List HostMove) (r : Reg) (v : Word), isObservation r = true →
    s.inbox = .access (.write (regOffset r) .word 0xF#4 v) :: rest → step s = .next { s with inbox := rest }) ∧
  (∀ (s : State) (rest : List HostMove) (i : Nat) (v : Word), i < 2 * maxFrames Config.machine →
    s.inbox = .access (.write (BitVec.ofNat 17 (0x10000 + 4 * i)) .word 0xF#4 v) :: rest →
    step s = .next { s with inbox := rest }) ∧
  (∀ (s : State) (rest : List HostMove), s.inbox = .access (.read (regOffset .cmd) .word) :: rest →
    step s = .next { s with inbox := rest, lastRead := some 0#32 })

/-- R44: the STATUS word's bits, and the W1C write. -/
def Obligations.StatusReadsItsFlagsAndClearsOnOne : Prop :=
  (∀ (s : State) (rest : List HostMove), s.inbox = .access (.read (regOffset .status) .word) :: rest →
    ∃ w : Word, step s = .next { s with inbox := rest, lastRead := some w } ∧ w.getLsbD 0 = s.busy ∧
      w.getLsbD 1 = s.ill ∧ w.getLsbD 2 = s.busErr ∧ w.getLsbD 3 = s.filt.coefValid ∧ w.toNat < 16) ∧
  (∀ (s : State) (rest : List HostMove) (v : Word),
    s.inbox = .access (.write (regOffset .status) .word 0xF#4 v) :: rest →
    step s = .next { s with inbox := rest, ill := s.ill && !v.getLsbD 1, busErr := s.busErr && !v.getLsbD 2 })

/-- R59, whole: a write to a control register stores its value in the control file (what the register then reads is
`ControlRegistersReadBackTheirFields`) and changes only it (every other register of the map, the envelope's rates and the
coefficients among them, reads as before), at BUSY = 0 and at BUSY = 1; a read has no side effect. -/
def Obligations.ControlWriteChangesOnlyItsRegister : Prop :=
  ∀ (s : State) (rest : List HostMove) (r : Reg) (v : Word), isControl r = true →
    (s.inbox = .access (.write (regOffset r) .word 0xF#4 v) :: rest →
      step s = .next { s with inbox := rest, ctl := writeControl r v s.ctl } ∧
        ∀ r', r' ≠ r → regValue { s with inbox := rest, ctl := writeControl r v s.ctl } r' = regValue s r') ∧
    (s.inbox = .access (.read (regOffset r) .word) :: rest →
      step s = .next { s with inbox := rest, lastRead := some (regValue s r) })

/-- R42, R47, R58, R25: what a control register reads after the step that takes a write of it, at BUSY = 0 and at BUSY = 1: all 32
bits of a plain one; bit 0 and a legal WAVE of an OSCk_CTRL, whose WAVE a code 3 leaves as it was; bit 0 of NOTE_ON. -/
def Obligations.ControlRegistersReadBackTheirFields : Prop :=
  ∀ (s : State) (rest : List HostMove) (r : Reg) (v : Word), isControl r = true →
    s.inbox = .access (.write (regOffset r) .word 0xF#4 v) :: rest →
    ∃ t, step s = .next t ∧ regValue t r =
      if r = .osc0Ctrl ∨ r = .osc1Ctrl ∨ r = .osc2Ctrl then
        (if v.extractLsb' 1 2 = 3#2 then (regValue s r &&& 6#32) ||| (v &&& 1#32) else v &&& 7#32)
      else if r = .noteOn then v &&& 1#32
      else v

/-- R71, R75, R111: a read of an observation register or of OUTBUF returns what is held when BUSY = 0, and a free value, a fresh
one for each read, when BUSY = 1; nothing else changes. That the free value is `Config.busyRead` of the counter `busyReads`, which
the read advances, is the model's own choice (log 9, DESIGN CHOICE); no value of it is stated. -/
def Obligations.ReadsDuringBusyAreFree : Prop :=
  (∀ (s : State) (rest : List HostMove) (r : Reg), isObservation r = true →
    s.inbox = .access (.read (regOffset r) .word) :: rest →
    (s.busy = false → step s = .next { s with inbox := rest, lastRead := some (regValue s r) }) ∧
    (s.busy = true → step s = .next { s with
      inbox := rest, lastRead := some (Config.busyRead s.busyReads), busyReads := s.busyReads + 1 })) ∧
  (∀ (s : State) (rest : List HostMove) (i : Nat), i < 2 * maxFrames Config.machine →
    s.inbox = .access (.read (BitVec.ofNat 17 (0x10000 + 4 * i)) .word) :: rest →
    (s.busy = false → step s = .next { s with inbox := rest, lastRead := some (outbufWord Config.machine s i) }) ∧
    (s.busy = true → step s = .next { s with
      inbox := rest, lastRead := some (Config.busyRead s.busyReads), busyReads := s.busyReads + 1 }))

/-! ## NOTE_ON and NOTE_OFF -/

/-- R311, R312: NOTE_ON completes; NOTE_FREQ is the formula of R311, NOTE_ON.ON is 1, the state is ATTACK, and nothing else
changes (ENV_VALUE, the rates, the phases, the filter and every byte of OUTBUF among it). -/
def Obligations.NoteOnSetsFrequencyAndAttack : Prop :=
  ∀ (n : Int) (s : State), s.busy = false →
    exec (.noteOn n) s = .next { s with
      ctl := { s.ctl with
        noteFreq := fmul 0x435C0000#32
          (exp2Cfg Config.machine (fadd (toF32 s.ctl.octave.toInt) (fdiv (toF32 n) 0x41400000#32)))
        noteOn := true }
      env := { s.env with state := .attack } }

/-- R313, whole: whole octaves are exact: with OCTAVE + j = k in −126 .. 127 the exponent is exactly k, and NOTE_FREQ is exactly
220 · 2^k wherever that is representable (k ≤ 120); NOTE_ON 0 at octave 0 gives 220.0. -/
def Obligations.WholeOctavesAreExact : Prop :=
  (∀ (s : State) (j k : Int), s.busy = false → -2730 ≤ j → j ≤ 2730 → s.ctl.octave.toInt + j = k → -126 ≤ k → k ≤ 127 →
    fadd (toF32 s.ctl.octave.toInt) (fdiv (toF32 (12 * j)) 0x41400000#32) = toF32 k ∧
    ∃ t, exec (.noteOn (12 * j)) s = .next t ∧
      (k ≤ 120 → isFinite t.ctl.noteFreq = true ∧ units t.ctl.noteFreq = 220 * 2 ^ (k + 149).toNat)) ∧
  (∀ s : State, s.busy = false → s.ctl.octave = 0#32 →
    ∃ t, exec (.noteOn 0) s = .next t ∧ t.ctl.noteFreq = 0x435C0000#32)

/-- R316, whole: NOTE_OFF's word; it clears NOTE_ON.ON, and moves the envelope to RELEASE unless it is IDLE; nothing else changes
(NOTE_FREQ and ENV_VALUE among it). -/
def Obligations.NoteOffClearsTheFlagAndReleases : Prop :=
  encode .noteOff = 0x02000000#32 ∧
  ∀ s : State, s.busy = false →
    exec .noteOff s = .next { s with
      ctl := { s.ctl with noteOn := false }
      env := { s.env with state := if s.env.state = .idle then .idle else .release } }

/-- R310, R317, R410: a command given while a PROCESS runs has the effect it has after that PROCESS: one more stage, or all of
them, change nothing about its outcome. That a meaning applied to a busy state first lets the PROCESS complete is the model's
reading (log 14, DEDUCED). -/
def Obligations.CommandActsAfterTheRunningProcess : Prop :=
  ∀ (i : Instr) (s : State),
    exec i s = exec i (runStage Config.machine s) ∧ exec i s = exec i (awaitIdle Config.machine s) ∧
    (awaitIdle Config.machine s).busy = false

/-! ## Envelope -/

/-- R221, whole: the table of transitions, the frame step's rows as exact sums and differences, the command rows at `exec`. -/
def Obligations.EnvelopeFollowsItsTransitionTable : Prop :=
  (∀ (n : Int) (s : State), s.busy = false → ∃ t, exec (.noteOn n) s = .next t ∧ t.env = { s.env with state := .attack }) ∧
  (∀ s : State, s.busy = false → s.env.state = .idle → ∃ t, exec .noteOff s = .next t ∧ t.env = s.env) ∧
  (∀ s : State, s.busy = false → s.env.state ≠ .idle →
    ∃ t, exec .noteOff s = .next t ∧ t.env = { s.env with state := .release }) ∧
  (∀ e : Envelope, e.state = .idle → envStep e = { e with value := 0x00000000#32 }) ∧
  (∀ e : Envelope, e.state = .attack → flt (fadd e.value e.attackRate) 0x3F800000#32 = true →
    envStep e = { e with value := fadd e.value e.attackRate }) ∧
  (∀ e : Envelope, e.state = .attack → fle 0x3F800000#32 (fadd e.value e.attackRate) = true →
    envStep e = { e with value := 0x3F800000#32, state := .sustain }) ∧
  (∀ e : Envelope, e.state = .sustain → envStep e = { e with value := 0x3F800000#32 }) ∧
  (∀ e : Envelope, e.state = .release → flt 0x00000000#32 (fsub e.value e.releaseRate) = true →
    envStep e = { e with value := fsub e.value e.releaseRate }) ∧
  (∀ e : Envelope, e.state = .release → fle (fsub e.value e.releaseRate) 0x00000000#32 = true →
    envStep e = { e with value := 0x00000000#32, state := .idle })

/-- R232, whole: the value stays in [0.0, 1.0], never NaN; it never decreases in ATTACK and never increases in RELEASE; IDLE holds
+0.0. The command parts keep the same. -/
def Obligations.EnvelopeValueStaysInRangeAndMonotone : Prop :=
  ∀ e : Envelope, EnvelopeOk e →
    EnvelopeOk (envStep e) ∧ EnvelopeOk (envNoteOn e) ∧ EnvelopeOk (envNoteOff e) ∧ isNaN (envStep e).value = false ∧
    (e.state = .attack → fle e.value (envStep e).value = true) ∧
    (e.state = .release → fle (envStep e).value e.value = true) ∧
    ((envStep e).state = .idle → (envStep e).value = 0x00000000#32)

/-- R222: a rate is 1/(t · SR) for a positive time and 1000.0 for every other (zero, negative, NaN); it is never NaN and never
negative; an infinite time gives +0.0. -/
def Obligations.RateIsNeverNegativeNorNaN : Prop :=
  ∀ (c : Cfg) (t : F32),
    NonNegative (envRate c t) ∧
    (flt 0x00000000#32 t = true → envRate c t = fdiv 0x3F800000#32 (fmul t (sampleRate c))) ∧
    (flt 0x00000000#32 t = false → envRate c t = 0x447A0000#32) ∧
    envRate c 0x7F800000#32 = 0x00000000#32

/-! ## Oscillators -/

/-- R188, whole, and R324: one generation advances the phase by the n-fold application of p ↦ wrap(p + inc) with inc = f / SR, for
every waveform; a PROCESS does so for an enabled oscillator and leaves a disabled one's phase alone. -/
def Obligations.PhaseIsTheIteratedAdvance : Prop :=
  (∀ (c : Cfg) (n : Nat) (wave : Wave) (f p : F32) (d : Nat), (oscGen c n wave f p d).phase =
    (fun q => wrap (fadd q (fdiv f (sampleRate c))))^[n] p) ∧
  ∀ (n : Nat) (s : State), s.busy = false → ∃ t, exec (.process n) s = .next t ∧ ∀ k : OscId,
    ((s.ctl.osc k).en = true → t.phases.get k =
      (fun p => wrap (fadd p (fdiv (fadd s.ctl.noteFreq (s.ctl.osc k).offset) (sampleRate Config.machine))))^[n]
        (s.phases.get k)) ∧
    ((s.ctl.osc k).en = false → t.phases.get k = s.phases.get k)

/-- R189, whole: every SCRATCH word OSC_GEN writes is in [−0.5, 0.5] and not NaN, for every f and every waveform, from every phase
in [0, 1). -/
def Obligations.GeneratedSamplesStayInRange : Prop :=
  ∀ (c : Cfg) (n : Nat) (wave : Wave) (f p : F32) (d : Nat), InUnit p →
    ∀ fr ∈ (oscGen c n wave f p d).frames,
      fle 0xBF000000#32 fr.left = true ∧ fle fr.left 0x3F000000#32 = true ∧ isNaN fr.left = false ∧ fr.right = fr.left

/-- R184, R31: each enabled NOISE oscillator makes one draw a frame, the i-th frame is the i-th draw in both lanes, and no other
oscillator draws. -/
def Obligations.NoiseMakesOneDrawPerFrame : Prop :=
  (∀ (c : Cfg) (n i : Nat) (f p : F32) (d : Nat), i < n →
    (oscGen c n .noise f p d).frames[i]? = some { left := noiseDraw c (d + i), right := noiseDraw c (d + i) }) ∧
  (∀ (n : Nat) (s : State), s.busy = false → ∃ t, exec (.process n) s = .next t ∧
    t.noiseDraws = s.noiseDraws +
      n * [OscId.osc0, .osc1, .osc2].countP (fun k => (s.ctl.osc k).en && decide ((s.ctl.osc k).wave = .noise)))

/-! ## Filter -/

/-- R271, whole: Q over the clamped resonance runs from 0.5 at r = 0 through 1.0 at r = 0.5 to 0x4248000D at RES_MAX, its largest,
and is never infinite or NaN. -/
def Obligations.QualityStaysBetweenHalfAndFifty : Prop :=
  (∀ res : F32, filtQ (filtRes res) = fdiv 0x3F000000#32 (fsub 0x3F800000#32 (clamp res 0x00000000#32 0x3F7D70A4#32)) ∧
    isFinite (filtQ (filtRes res)) = true ∧
    fle 0x3F000000#32 (filtQ (filtRes res)) = true ∧ fle (filtQ (filtRes res)) 0x4248000D#32 = true) ∧
  filtQ 0x00000000#32 = 0x3F000000#32 ∧ filtQ 0x3F000000#32 = 0x3F800000#32 ∧ filtQ 0x3F7D70A4#32 = 0x4248000D#32

/-- R276: the effective cutoff is the clamped modulated sum; it is always in [20.0, 20000.0], a NaN sum gives 20.0, and a zero
AUTO_AMOUNT leaves the clamped CUTOFF. -/
def Obligations.EffectiveCutoffStaysInRange : Prop :=
  ∀ (c : Cfg) (snap : Controls) (p : F32),
    InCutoffRange (lfoCutoff c snap p) ∧
    (isNaN (fadd snap.cutoff (fmul (fmul (sinCfg c (fmul 0x40C90FDB#32 p)) snap.autoAmount) 0x459C4000#32)) = true →
      lfoCutoff c snap p = 0x41A00000#32) ∧
    (InUnit p → fmag snap.autoAmount = 0 → lfoCutoff c snap p = clamp snap.cutoff 0x41A00000#32 0x469C4000#32)

/-- R272 to R275 (with R270 and R271): what the coefficient computation gives, written out. R278, 93_implementation_defined.md I8:
the coefficients are recomputed exactly when COEF_VALID is 0 or the cutoff moved by more
than 100.0; otherwise the resonance plays no part; a difference of exactly 100.0 does not recompute. -/
def Obligations.HysteresisDecidesTheRecomputation : Prop :=
  (∀ (c : Cfg) (cut res : F32),
    let w := fdiv (fmul 0x40C90FDB#32 cut) (sampleRate c)
    let q := fdiv 0x3F000000#32 (fsub 0x3F800000#32 (clamp res 0x00000000#32 0x3F7D70A4#32))
    let alpha := fdiv (sinCfg c w) (fmul 0x40000000#32 q)
    let norm := fdiv 0x3F800000#32 (fadd 0x3F800000#32 alpha)
    filtCoefs c cut res =
      { a0 := fmul (fmul (fsub 0x3F800000#32 (cosCfg c w)) 0x3F000000#32) norm
        a1 := fmul (fsub 0x3F800000#32 (cosCfg c w)) norm
        a2 := fmul (fmul (fsub 0x3F800000#32 (cosCfg c w)) 0x3F000000#32) norm
        b1 := fmul (fmul 0xC0000000#32 (cosCfg c w)) norm
        b2 := fmul (fsub 0x3F800000#32 alpha) norm }) ∧
  (∀ (c : Cfg) (res ce : F32) (u : FilterUnit),
    (u.coefValid = false ∨ flt 0x42C80000#32 (fabs (fsub ce u.lastCutoff)) = true →
      filtRecompute c res ce u = { u with coefs := filtCoefs c ce res, lastCutoff := ce, coefValid := true }) ∧
    (u.coefValid = true → flt 0x42C80000#32 (fabs (fsub ce u.lastCutoff)) = false → filtRecompute c res ce u = u)) ∧
  (∀ (c : Cfg) (res : F32) (u : FilterUnit), u.coefValid = true → u.lastCutoff = 0x447A0000#32 →
    filtRecompute c res 0x44898000#32 u = u)

/-- R279, R280, R274: one frame of the biquad is the recurrence on each channel's own history; each channel's output and new
history depend on that channel only; the coefficients are shared and stay. -/
def Obligations.ChannelsAreFilteredSeparately : Prop :=
  (∀ (u : FilterUnit) (f : Frame), (filterSample u f).2.coefs = u.coefs ∧
    (filterSample u f).1.left =
      fsub (fsub (fadd (fadd (fmul u.coefs.a0 f.left) (fmul u.coefs.a1 u.left.x1)) (fmul u.coefs.a2 u.left.x2))
        (fmul u.coefs.b1 u.left.y1)) (fmul u.coefs.b2 u.left.y2) ∧
    (filterSample u f).2.left =
      { x1 := f.left, x2 := u.left.x1, y1 := (filterSample u f).1.left, y2 := u.left.y1 } ∧
    (filterSample u f).1.right =
      fsub (fsub (fadd (fadd (fmul u.coefs.a0 f.right) (fmul u.coefs.a1 u.right.x1)) (fmul u.coefs.a2 u.right.x2))
        (fmul u.coefs.b1 u.right.y1)) (fmul u.coefs.b2 u.right.y2) ∧
    (filterSample u f).2.right =
      { x1 := f.right, x2 := u.right.x1, y1 := (filterSample u f).1.right, y2 := u.right.y1 }) ∧
  (∀ (u v : FilterUnit) (f g : Frame), u.coefs = v.coefs →
    (u.left = v.left → f.left = g.left →
      (filterSample u f).1.left = (filterSample v g).1.left ∧ (filterSample u f).2.left = (filterSample v g).2.left) ∧
    (u.right = v.right → f.right = g.right →
      (filterSample u f).1.right = (filterSample v g).1.right ∧ (filterSample u f).2.right = (filterSample v g).2.right))

/-- R68, R274: FILT_A2 always equals FILT_A0: it does after reset, and every step keeps it. -/
def Obligations.CoefficientA2StaysEqualToA0 : Prop :=
  State.reset.filt.coefs.a2 = State.reset.filt.coefs.a0 ∧
  ∀ s t : State, s.filt.coefs.a2 = s.filt.coefs.a0 → step s = .next t → t.filt.coefs.a2 = t.filt.coefs.a0

/-! ## PROCESS -/

/-- R320 to R329: in an idle block PROCESS n completes: it is its stages in the order of R320, from acceptance to BUSY <- 0. What
each stage does is stated apart: `MixIsTheSumInIndexOrder`, `ScratchHoldsTheWaveformSamples`, `EnvelopeStepsOncePerFrame`,
`FilterRunsFrameByFrame`, `ProcessWritesScaledMixToOutbuf`. -/
def Obligations.ProcessRunsItsStagesInOrder : Prop :=
  ∀ (n : Nat) (s : State), s.busy = false →
    exec (.process n) s = .next
      (stageComplete (stageScale (stageFilter Config.machine (stageEnvelope Config.machine
        (stageOscillator Config.machine n .osc2 (stageOscillator Config.machine n .osc1
          (stageOscillator Config.machine n .osc0 (stageClearMix n (acceptProcess n s)))))))))

/-- R325, R323, R324, whole R325: after stage 3 every MIX word is ((+0.0 + s_0) + s_1) + s_2 over the enabled oscillators in index
order, s_k being what SCRATCH_k received. -/
def Obligations.MixIsTheSumInIndexOrder : Prop :=
  ∀ (c : Cfg) (n : Nat) (s : State),
    let a := stageClearMix n (acceptProcess n s)
    let t := stageOscillator c n .osc2 (stageOscillator c n .osc1 (stageOscillator c n .osc0 a))
    (∀ k, (s.ctl.osc k).en = true → (t.scratch.get k).length = n) ∧ t.mix.length = n ∧
    ∀ i, i < n → ∃ m, t.mix[i]? = some m ∧
      m = [OscId.osc0, .osc1, .osc2].foldl
        (fun acc k => if (s.ctl.osc k).en then
          { left := fadd acc.left (((t.scratch.get k)[i]?).getD zeroFrame).left,
            right := fadd acc.right (((t.scratch.get k)[i]?).getD zeroFrame).right } else acc)
        { left := 0x00000000#32, right := 0x00000000#32 }

/-- R330, whole: after stage 3 every MIX word is finite and at most 1.5 in magnitude, and still so after stage 4; so the filter's
input is finite. -/
def Obligations.MixStaysFiniteAndBounded : Prop :=
  ∀ (c : Cfg) (n : Nat) (s : State), (∀ k, InUnit (s.phases.get k)) → EnvelopeOk s.env →
    let a := stageClearMix n (acceptProcess n s)
    let t := stageOscillator c n .osc2 (stageOscillator c n .osc1 (stageOscillator c n .osc0 a))
    (∀ f ∈ t.mix, AtMost 0x3FC00000 f.left ∧ AtMost 0x3FC00000 f.right) ∧
    (∀ f ∈ (stageEnvelope c t).mix, AtMost 0x3FC00000 f.left ∧ AtMost 0x3FC00000 f.right ∧
      isFinite f.left = true ∧ isFinite f.right = true)

/-- R328, whole: OUTBUF words 0 to 2n−1 are the filtered MIX words times VOLUME, the others keep their values, byte by byte; a NaN
VOLUME, and an infinite one times a zero, gives the canonical NaN. -/
def Obligations.ProcessWritesScaledMixToOutbuf : Prop :=
  (∀ (n : Nat) (s : State), s.busy = false → ∃ t, exec (.process n) s = .next t ∧ t.mix.length = n ∧
    (∀ i f, t.mix[i]? = some f →
      outbufWord Config.machine t (2 * i) = fmul f.left s.ctl.volume ∧
      outbufWord Config.machine t (2 * i + 1) = fmul f.right s.ctl.volume) ∧
    (∀ i, 2 * n ≤ i → outbufWord Config.machine t i = outbufWord Config.machine s i) ∧
    (∀ a, a < 0x10000 ∨ 0x10000 + 8 * n ≤ a → readByte t.outbuf a = readByte s.outbuf a)) ∧
  (∀ x v : F32, isNaN v = true → fmul x v = 0x7FC00000#32) ∧
  (∀ x v : F32, fmag x = 0 → isInf v = true → fmul x v = 0x7FC00000#32)

/-- R46, R320, R324, R371: what PROCESS leaves unchanged: every control register (NOTE_FREQ and NOTE_ON among them), ILL, BUS_ERR,
the phase and SCRATCH of every disabled oscillator, the outside world's moves; and BUSY is 0 at its end. -/
def Obligations.ProcessLeavesControlsAndDisabledOscillators : Prop :=
  ∀ (n : Nat) (s : State), s.busy = false → ∃ t, exec (.process n) s = .next t ∧ t.busy = false ∧
    t.ctl = s.ctl ∧ t.ill = s.ill ∧ t.busErr = s.busErr ∧ t.inbox = s.inbox ∧ t.pace = s.pace ∧
    t.lastRead = s.lastRead ∧ t.busyReads = s.busyReads ∧ t.resets = s.resets ∧
    (∀ k, (s.ctl.osc k).en = false → t.phases.get k = s.phases.get k ∧ t.scratch.get k = s.scratch.get k)

/-- R320 (corner n = 0), R223, R283: PROCESS 0 sets the envelope rates and does nothing else that a host can see. -/
def Obligations.ProcessOfZeroFramesOnlySetsTheRates : Prop :=
  ∀ s : State, s.busy = false → ∃ t, exec (.process 0) s = .next t ∧
    t.env = { s.env with
      attackRate := envRate Config.machine s.ctl.attackTime, releaseRate := envRate Config.machine s.ctl.releaseTime } ∧
    t.ctl = s.ctl ∧ t.phases = s.phases ∧ t.filt = s.filt ∧ t.outbuf = s.outbuf ∧ t.busy = false ∧ t.ill = s.ill ∧
    t.busErr = s.busErr ∧ t.noiseDraws = s.noiseDraws ∧
    ∀ r, r ≠ .envAttackRate → r ≠ .envReleaseRate → regValue t r = regValue s r

/-- R331, R273, 90_conflicts.md C3: with every oscillator disabled every MIX word entering the filter is +0.0; with both histories
zero as well, every filter output is +0.0 and every
OUTBUF word written is a zero with the sign of VOLUME, for every configuration whose sine is not negative at an effective cutoff
(a property of the configuration that R273 asks a claim to name). R331 names the sign of a non-negative and of a negative VOLUME;
at −0.0 the sign is that of R20 and R328. -/
def Obligations.DisabledOscillatorsGiveSilence : Prop :=
  (∀ (c : Cfg) (n : Nat) (s : State), (∀ k, (s.ctl.osc k).en = false) → EnvelopeOk s.env →
    (stageEnvelope c (stageOscillator c n .osc2 (stageOscillator c n .osc1 (stageOscillator c n .osc0
      (stageClearMix n (acceptProcess n s)))))).mix = List.replicate n zeroFrame) ∧
  ∀ (c : Cfg) (n : Nat) (s : State), SineNonNegative c → (∀ k, (s.ctl.osc k).en = false) →
    s.filt.left.IsZero → s.filt.right.IsZero → CoefsOk s.filt.coefs → EnvelopeOk s.env → isFinite s.ctl.volume = true →
    (∀ f ∈ (processWhole c n s).mix, f = { left := 0x00000000#32, right := 0x00000000#32 }) ∧
    ∀ i, i < 2 * n → outbufWord c (processWhole c n s) i =
      if fsign s.ctl.volume then 0x80000000#32 else 0x00000000#32

/-- R401, R273: a PROCESS right after reset writes +0.0, sets both rates to 1000.0, and from its first frame on COEF_VALID is 1 at
an effective cutoff of 20.0; for every configuration whose sine is not negative at an effective cutoff. -/
def Obligations.FirstProcessAfterResetIsSilent : Prop :=
  ∀ (c : Cfg) (n : Nat), SineNonNegative c →
    (∀ i, i < 2 * n → outbufWord c (processWhole c n State.reset) i = 0x00000000#32) ∧
    (processWhole c n State.reset).env.attackRate = 0x447A0000#32 ∧
    (processWhole c n State.reset).env.releaseRate = 0x447A0000#32 ∧
    (0 < n → (processWhole c n State.reset).filt.coefValid = true ∧
      (processWhole c n State.reset).filt.lastCutoff = 0x41A00000#32)

/-- R292, whole: the lanes of every MIX frame are equal when they enter the filter; the histories are equal after reset, stay
equal, and the two output words of every frame are equal, bit for bit. -/
def Obligations.DualMonoIdentity : Prop :=
  State.reset.filt.left = State.reset.filt.right ∧
  ∀ (n : Nat) (s : State), s.busy = false → s.filt.left = s.filt.right →
    (∀ f ∈ (stageEnvelope Config.machine (stageOscillator Config.machine n .osc2 (stageOscillator Config.machine n .osc1
        (stageOscillator Config.machine n .osc0 (stageClearMix n (acceptProcess n s)))))).mix, LanesEqual f) ∧
    ∃ t, exec (.process n) s = .next t ∧ t.filt.left = t.filt.right ∧
      ∀ i, i < n → outbufWord Config.machine t (2 * i) = outbufWord Config.machine t (2 * i + 1)

/-- R292, R333, as an invariant: from every state in which the channels are equal, a running PROCESS among them, every step leaves
them equal. -/
def Obligations.EveryStepKeepsTheChannelsEqual : Prop :=
  ∀ s t : State, ChannelsEqual s → step s = .next t → ChannelsEqual t

/-! ## The split and the whole PROCESS -/

/-- R372, R77, R320: a PROCESS taken stage by stage leaves exactly what the whole PROCESS leaves; the run of the machine at the
staged pace, acceptance and eight stages, ends in that state. -/
def Obligations.StagedRunEqualsTheWholeProcess : Prop :=
  (∀ (c : Cfg) (n : Nat) (s : State), s.busy = false → runStages c 8 (acceptProcess n s) = processWhole c n s) ∧
  (∀ (n : Nat) (s : State), s.busy = false → n ≤ maxFrames Config.machine →
    Host.Core.run core 9 { s with pace := .staged, inbox := [.access (cmdWrite (encode (.process n)))] } =
      .next { processWhole Config.machine n s with pace := .staged, inbox := [] })

/-- R60, whole: a control write completes at once and stores its value, while BUSY = 1 as at BUSY = 0; the running PROCESS goes on
as if it had not been made; the next PROCESS latches it. -/
def Obligations.ControlWritesMissTheRunningProcess : Prop :=
  (∀ (s : State) (rest : List HostMove) (r : Reg) (v : Word), isControl r = true →
    s.inbox = .access (.write (regOffset r) .word 0xF#4 v) :: rest →
    step s = .next { s with inbox := rest, ctl := writeControl r v s.ctl }) ∧
  (∀ (s : State) (k : Nat) (w : Controls),
    runStages Config.machine k { s with ctl := w } = { runStages Config.machine k s with ctl := w }) ∧
  (∀ (s : State) (n : Nat) (w : Controls), (acceptProcess n { s with ctl := w }).snap = w)

/-- R421: with no move of the host left, a running PROCESS completes within eight steps. -/
def Obligations.AcceptedProcessCompletes : Prop :=
  ∀ s : State, s.inbox = [] → ∃ t, Host.Core.run core 8 s = .next t ∧ t.busy = false ∧ t = awaitIdle Config.machine s

/-! ## Invariants -/

/-- R78, R400: the register invariants hold after reset. -/
def Obligations.ResetMeetsTheRegisterInvariants : Prop := RegistersOk State.reset

/-- R78, whole: the register invariants are kept by every step from every state that meets them: the phases in [+0.0, 1.0), the
envelope value in [0.0, 1.0] and +0.0 in IDLE, the last cutoff +0.0 or in [20.0, 20000.0], the rates in [+0.0, +inf]. -/
def Obligations.EveryStepKeepsTheRegisterInvariants : Prop :=
  RegistersOk State.reset ∧ ∀ s t : State, RegistersOk s → step s = .next t → RegistersOk t

/-- R75, R102, R145: OUTBUF's cells stay in canonical form and inside the window of P_MAX_FRAMES frames, and a running PROCESS keeps
a legal frame count with as many MIX frames. -/
def Obligations.EveryStepKeepsTheOutbufForm : Prop :=
  OutbufOk Config.machine State.reset ∧
  ∀ s t : State, OutbufOk Config.machine s → step s = .next t → OutbufOk Config.machine t

/-- R360: no command, no access and no arithmetic stops the block: every step answers a next state. -/
def Obligations.NothingStopsTheBlock : Prop := ∀ s : State, ∃ t, step s = .next t

/-- R374: an idle block with no move of the outside world pending keeps its whole state for any number of steps. -/
def Obligations.IdleBlockKeepsItsState : Prop :=
  ∀ (k : Nat) (s : State), s.inbox = [] → s.busy = false → Host.Core.run core k s = .next s

/-- R373, R46, R371: a host access that submits no command changes no engine state: phases, envelope, filter, progress, snapshot,
MIX, SCRATCH, OUTBUF; and it makes no noise draw. -/
def Obligations.HostAccessesCannotReachEngineState : Prop :=
  ∀ (s t : State) (a : Access) (rest : List HostMove), s.inbox = .access a :: rest →
    submittedWord Config.machine a = none → step s = .next t →
    t.phases = s.phases ∧ t.env = s.env ∧ t.filt = s.filt ∧ t.progress = s.progress ∧ t.snap = s.snap ∧ t.mix = s.mix ∧
    t.scratch = s.scratch ∧ t.outbuf = s.outbuf ∧ t.noiseDraws = s.noiseDraws ∧ t.inbox = rest

/-! ## Reset -/

/-- R400 (95_test_vectors.md V-RESET): after reset every register reads 0x00000000, the block is idle and OUTBUF has no written
byte. -/
def Obligations.ResetRegistersReadZero : Prop :=
  (∀ r, regValue State.reset r = 0x00000000#32) ∧ State.reset.busy = false ∧ State.reset.env.state = .idle ∧
  (∀ k, (State.reset.ctl.osc k).en = false ∧ (State.reset.ctl.osc k).wave = .triangle) ∧
  ∀ a, readByte State.reset.outbuf a = none

/-- R390, R400: the reset move brings every register, from any state and from the middle of a PROCESS, to its reset value; no later
stage of the PROCESS happens, and the words of OUTBUF are unspecified anew. -/
def Obligations.ResetMoveAbandonsEverything : Prop :=
  ∀ (s : State) (rest : List HostMove), s.inbox = .reset :: rest →
    ∃ t, step s = .next t ∧ (∀ r, regValue t r = 0x00000000#32) ∧ t.busy = false ∧
      (∀ k, runStages Config.machine k t = t) ∧ (∀ a, readByte t.outbuf a = none) ∧
      (∀ a, outbufByte Config.machine t a = Config.outbufFill (s.resets + 1) a) ∧ t.inbox = rest

/-! ## Arithmetic -/

/-- R17, R19: rounding gives a magnitude no finite one is nearer than, an even pattern when another is as near, and infinity
exactly from half a last place above the largest finite value on. -/
def Obligations.RoundingIsToNearestEven : Prop :=
  ∀ num den : Nat, 0 < den →
    (roundMag num den < infMag → ∀ m, m < infMag →
      |(magUnits (roundMag num den) : Int) * den - num| ≤ |(magUnits m : Int) * den - num| ∧
      (|(magUnits (roundMag num den) : Int) * den - num| = |(magUnits m : Int) * den - num| → m ≠ roundMag num den →
        roundMag num den % 2 = 0)) ∧
    (roundMag num den = infMag ↔ (2 ^ 25 - 1) * 2 ^ 253 * den ≤ 2 * num)

/-- R21: an operation whose result is NaN gives 0x7FC00000, whatever its operands. -/
def Obligations.NaNResultsAreCanonical : Prop :=
  ∀ x y : F32,
    (isNaN (fadd x y) = true → fadd x y = 0x7FC00000#32) ∧ (isNaN (fsub x y) = true → fsub x y = 0x7FC00000#32) ∧
    (isNaN (fmul x y) = true → fmul x y = 0x7FC00000#32) ∧ (isNaN (fdiv x y) = true → fdiv x y = 0x7FC00000#32)

/-- R24: conversion is exact up to 2^24 in magnitude. -/
def Obligations.ConversionIsExactUpTo24Bits : Prop :=
  ∀ i : Int, |i| ≤ 2 ^ 24 → isFinite (toF32 i) = true ∧ units (toF32 i) = i * 2 ^ 149

/-- R26, whole: clamp as the rule writes it; it gives the lower bound for NaN and stays within its bounds; −0.0 over a bound of 0.0
is returned as it is. -/
def Obligations.ClampStaysWithinItsBounds : Prop :=
  (∀ x lo hi : F32, fle lo hi = true →
    (isNaN x = true → clamp x lo hi = lo) ∧ (flt x lo = true → clamp x lo hi = lo) ∧
    (flt hi x = true → clamp x lo hi = hi) ∧ (fle lo x = true → fle x hi = true → clamp x lo hi = x) ∧
    fle lo (clamp x lo hi) = true ∧ fle (clamp x lo hi) hi = true) ∧
  (∀ hi : F32, fle 0x00000000#32 hi = true → clamp 0x80000000#32 0x00000000#32 hi = 0x80000000#32)

/-- R27, whole: wrap as the rule writes it brings every value into [0, 1), never −0.0; it leaves a value already there alone; for
finite x ≥ 0 the subtraction is exact. -/
def Obligations.WrapBringsEveryValueIntoTheUnitInterval : Prop :=
  (∀ x : F32, InUnit (wrap x)) ∧
  (∀ x : F32, isFinite x = false → wrap x = 0x00000000#32) ∧
  (∀ x : F32, isFinite x = true → fle 0x3F800000#32 (fsub x (ffloor x)) = true → wrap x = 0x00000000#32) ∧
  (∀ x : F32, isFinite x = true → fle 0x3F800000#32 (fsub x (ffloor x)) = false → wrap x = fsub x (ffloor x)) ∧
  (∀ x : F32, InUnit x → wrap x = x) ∧ wrap 0x80000000#32 = 0x00000000#32 ∧
  (∀ x : F32, isFinite x = true → fle 0x00000000#32 x = true →
    units (fsub x (ffloor x)) = units x - units (ffloor x))

/-- R6, R7, R29, R30, R31: what every choice of the parameters, the configuration functions and the draws has. -/
def Obligations.EveryConfigurationHasItsStatedProperties : Prop :=
  ∀ c : Cfg,
    (isFinite (sampleRate c) = true ∧ flt 0x471C4000#32 (sampleRate c) = true) ∧ (1 ≤ maxFrames c ∧ maxFrames c ≤ 8192) ∧
    (∀ x, isFinite x = true → inRange 0xBF800000#32 0x3F800000#32 (sinCfg c x) = true ∧
      inRange 0xBF800000#32 0x3F800000#32 (cosCfg c x) = true) ∧
    sinCfg c 0x00000000#32 = 0x00000000#32 ∧ cosCfg c 0x00000000#32 = 0x3F800000#32 ∧
    (∀ k : Int, -126 ≤ k → k ≤ 127 → isFinite (exp2Cfg c (toF32 k)) = true ∧
      units (exp2Cfg c (toF32 k)) = 2 ^ (k + 149).toNat) ∧
    (∀ x, isFinite x = true → fle 0x00000000#32 (exp2Cfg c x) = true) ∧
    exp2Cfg c 0x7F800000#32 = 0x7F800000#32 ∧
    (∀ k, inRange 0xBF000000#32 0x3F000000#32 (noiseDraw c k) = true)

/-! ## The units of PROCESS, frame by frame, and an ILLEGAL word during BUSY -/

/-- R277, R282: PROCESS n leaves LFO_PHASE as the n-fold application of p ↦ wrap(p + linc) with linc = AUTO_FREQ / SR, whatever
AUTO_AMOUNT and the oscillators are. -/
def Obligations.LfoPhaseIsTheIteratedAdvance : Prop :=
  ∀ (n : Nat) (s : State), s.busy = false → ∃ t, exec (.process n) s = .next t ∧
    t.filt.lfoPhase =
      (fun p => wrap (fadd p (fdiv s.ctl.autoFreq (sampleRate Config.machine))))^[n] s.filt.lfoPhase

/-- R223, R230, R231: PROCESS n sets the rates from ATTACK_TIME and RELEASE_TIME and leaves the envelope n frame steps later; in its
envelope stage MIX frame i is multiplied, both lanes, by the value after its own step, the (i + 1)-th. -/
def Obligations.EnvelopeStepsOncePerFrame : Prop :=
  (∀ (n : Nat) (s : State), s.busy = false → ∃ t, exec (.process n) s = .next t ∧
    t.env = envStep^[n] ({ s.env with
      attackRate := envRate Config.machine s.ctl.attackTime
      releaseRate := envRate Config.machine s.ctl.releaseTime } : Envelope)) ∧
  (∀ (c : Cfg) (s : State),
    let e : Envelope := { s.env with attackRate := envRate c s.snap.attackTime, releaseRate := envRate c s.snap.releaseTime }
    (stageEnvelope c s).env = envStep^[s.mix.length] e ∧ (stageEnvelope c s).mix.length = s.mix.length ∧
    ∀ (i : Nat) (f : Frame), s.mix[i]? = some f → (stageEnvelope c s).mix[i]? =
      some ({ left := fmul f.left (envStep^[i + 1] e).value, right := fmul f.right (envStep^[i + 1] e).value } : Frame))

/-- R283, R276 to R279, R282: one frame of the filter takes its cutoff from the LFO phase before the advance, then makes the
hysteresis test, then filters the frame (`ChannelsAreFilteredSeparately`), then advances the LFO; the filter stage does so for each
MIX frame in order, each from the filter the frame before left, with linc computed from AUTO_FREQ once. -/
def Obligations.FilterRunsFrameByFrame : Prop :=
  (∀ (c : Cfg) (snap : Controls) (linc : F32) (u : FilterUnit) (f : Frame),
    let ce := clamp
      (fadd snap.cutoff (fmul (fmul (sinCfg c (fmul 0x40C90FDB#32 u.lfoPhase)) snap.autoAmount) 0x459C4000#32))
      0x41A00000#32 0x469C4000#32
    let v := if u.coefValid = false ∨ flt 0x42C80000#32 (fabs (fsub ce u.lastCutoff)) = true then
        { u with coefs := filtCoefs c ce snap.resonance, lastCutoff := ce, coefValid := true } else u
    filterFrame c snap linc u f =
      ((filterSample v f).1, { (filterSample v f).2 with lfoPhase := wrap (fadd u.lfoPhase linc) })) ∧
  (∀ (c : Cfg) (s : State), ∃ u : Nat → FilterUnit,
    u 0 = s.filt ∧ (stageFilter c s).filt = u s.mix.length ∧ (stageFilter c s).mix.length = s.mix.length ∧
    ∀ i f, s.mix[i]? = some f →
      (stageFilter c s).mix[i]? = some (filterFrame c s.snap (fdiv s.snap.autoFreq (sampleRate c)) (u i) f).1 ∧
      u (i + 1) = (filterFrame c s.snap (fdiv s.snap.autoFreq (sampleRate c)) (u i) f).2)

/-- R182, R183, R187, R324: the sample of frame i of a TRIANGLE or SAW generation is the waveform at the phase before that frame's
advance, in both lanes; and PROCESS n leaves in SCRATCH_k of each enabled oscillator the generation of its waveform at
f = NOTE_FREQ + OSCk_OFFSET from its phase, its noise draws following those of the oscillators before it (the draw counter is the
model's own, log 3). -/
def Obligations.ScratchHoldsTheWaveformSamples : Prop :=
  (∀ (c : Cfg) (n i : Nat) (f p : F32) (d : Nat), i < n →
    let q := (fun r => wrap (fadd r (fdiv f (sampleRate c))))^[i] p
    let tri := if flt q 0x3F000000#32 then fmul (fsub (fmul 0x40800000#32 q) 0x3F800000#32) 0x3F000000#32
      else fmul (fsub 0x40400000#32 (fmul 0x40800000#32 q)) 0x3F000000#32
    let saw := fmul (fsub (fmul 0x40000000#32 q) 0x3F800000#32) 0x3F000000#32
    (oscGen c n .triangle f p d).frames[i]? = some { left := tri, right := tri } ∧
    (oscGen c n .saw f p d).frames[i]? = some { left := saw, right := saw }) ∧
  (∀ (n : Nat) (s : State), s.busy = false → ∃ t, exec (.process n) s = .next t ∧ ∀ k : OscId,
    (s.ctl.osc k).en = true → t.scratch.get k =
      (oscGen Config.machine n (s.ctl.osc k).wave (fadd s.ctl.noteFreq (s.ctl.osc k).offset) (s.phases.get k)
        (s.noiseDraws + n * ([OscId.osc0, .osc1, .osc2].takeWhile (fun j => decide (j ≠ k))).countP
          (fun j => (s.ctl.osc j).en && decide ((s.ctl.osc j).wave = .noise)))).frames)

/-- R148, R364, R410: an ILLEGAL word taken at the whole pace in any state, a busy one among them, sets ILL on the state the running
PROCESS leaves, and nothing else changes. That the step itself waits for the PROCESS is the model's reading (log 14, DEDUCED), and
the pace is its own choice (log 6). At the staged pace the write is held (`HeldCommandWaitsUntilTheProcessCompletes`). -/
def Obligations.IllegalWordDuringBusySetsIllAfterTheProcess : Prop :=
  ∀ (s : State) (a : Access) (rest : List HostMove) (w : Word),
    s.inbox = .access a :: rest → submittedWord Config.machine a = some w → s.pace = .whole →
    IllegalWord Config.machine w →
    step s = .next { awaitIdle Config.machine s with inbox := rest, ill := true } ∧
    (awaitIdle Config.machine s).busy = false
end

