-- ==== Sys2Proof/Laws/State.lean ====
section
/-! SUPPORT. One lemma per field per update of State, and the same for the named operations: what each leaves unchanged. -/

namespace Sys2Proof.Machine

/-! ## raiseCause -/

@[simp] theorem raiseCause_ctl (e : Cause) (s : State) : (raiseCause e s).ctl = s.ctl := by cases e <;> rfl
@[simp] theorem raiseCause_phases (e : Cause) (s : State) : (raiseCause e s).phases = s.phases := by cases e <;> rfl
@[simp] theorem raiseCause_env (e : Cause) (s : State) : (raiseCause e s).env = s.env := by cases e <;> rfl
@[simp] theorem raiseCause_filt (e : Cause) (s : State) : (raiseCause e s).filt = s.filt := by cases e <;> rfl
@[simp] theorem raiseCause_progress (e : Cause) (s : State) : (raiseCause e s).progress = s.progress := by cases e <;> rfl
@[simp] theorem raiseCause_snap (e : Cause) (s : State) : (raiseCause e s).snap = s.snap := by cases e <;> rfl
@[simp] theorem raiseCause_mix (e : Cause) (s : State) : (raiseCause e s).mix = s.mix := by cases e <;> rfl
@[simp] theorem raiseCause_scratch (e : Cause) (s : State) : (raiseCause e s).scratch = s.scratch := by cases e <;> rfl
@[simp] theorem raiseCause_outbuf (e : Cause) (s : State) : (raiseCause e s).outbuf = s.outbuf := by cases e <;> rfl
@[simp] theorem raiseCause_inbox (e : Cause) (s : State) : (raiseCause e s).inbox = s.inbox := by cases e <;> rfl
@[simp] theorem raiseCause_pace (e : Cause) (s : State) : (raiseCause e s).pace = s.pace := by cases e <;> rfl
@[simp] theorem raiseCause_lastRead (e : Cause) (s : State) : (raiseCause e s).lastRead = s.lastRead := by cases e <;> rfl
@[simp] theorem raiseCause_noiseDraws (e : Cause) (s : State) : (raiseCause e s).noiseDraws = s.noiseDraws := by cases e <;> rfl
@[simp] theorem raiseCause_busyReads (e : Cause) (s : State) : (raiseCause e s).busyReads = s.busyReads := by cases e <;> rfl
@[simp] theorem raiseCause_resets (e : Cause) (s : State) : (raiseCause e s).resets = s.resets := by cases e <;> rfl

@[simp] theorem raiseCause_illegal_ill (s : State) : (raiseCause .illegalCommand s).ill = true := rfl
@[simp] theorem raiseCause_illegal_busErr (s : State) : (raiseCause .illegalCommand s).busErr = s.busErr := rfl
@[simp] theorem raiseCause_bus_ill (s : State) : (raiseCause .busError s).ill = s.ill := rfl
@[simp] theorem raiseCause_bus_busErr (s : State) : (raiseCause .busError s).busErr = true := rfl

/-! ## acceptProcess -/

@[simp] theorem acceptProcess_ill (n : Nat) (s : State) : (acceptProcess n s).ill = s.ill := rfl
@[simp] theorem acceptProcess_busErr (n : Nat) (s : State) : (acceptProcess n s).busErr = s.busErr := rfl
@[simp] theorem acceptProcess_ctl (n : Nat) (s : State) : (acceptProcess n s).ctl = s.ctl := rfl
@[simp] theorem acceptProcess_phases (n : Nat) (s : State) : (acceptProcess n s).phases = s.phases := rfl
@[simp] theorem acceptProcess_env (n : Nat) (s : State) : (acceptProcess n s).env = s.env := rfl
@[simp] theorem acceptProcess_filt (n : Nat) (s : State) : (acceptProcess n s).filt = s.filt := rfl
@[simp] theorem acceptProcess_mix (n : Nat) (s : State) : (acceptProcess n s).mix = s.mix := rfl
@[simp] theorem acceptProcess_scratch (n : Nat) (s : State) : (acceptProcess n s).scratch = s.scratch := rfl
@[simp] theorem acceptProcess_outbuf (n : Nat) (s : State) : (acceptProcess n s).outbuf = s.outbuf := rfl
@[simp] theorem acceptProcess_inbox (n : Nat) (s : State) : (acceptProcess n s).inbox = s.inbox := rfl
@[simp] theorem acceptProcess_pace (n : Nat) (s : State) : (acceptProcess n s).pace = s.pace := rfl
@[simp] theorem acceptProcess_lastRead (n : Nat) (s : State) : (acceptProcess n s).lastRead = s.lastRead := rfl
@[simp] theorem acceptProcess_noiseDraws (n : Nat) (s : State) : (acceptProcess n s).noiseDraws = s.noiseDraws := rfl
@[simp] theorem acceptProcess_busyReads (n : Nat) (s : State) : (acceptProcess n s).busyReads = s.busyReads := rfl
@[simp] theorem acceptProcess_resets (n : Nat) (s : State) : (acceptProcess n s).resets = s.resets := rfl

@[simp] theorem acceptProcess_progress (n : Nat) (s : State) :
    (acceptProcess n s).progress = some { frames := n, stage := .clearMix } := rfl
@[simp] theorem acceptProcess_snap (n : Nat) (s : State) : (acceptProcess n s).snap = s.ctl := rfl
@[simp] theorem acceptProcess_busy (n : Nat) (s : State) : (acceptProcess n s).busy = true := rfl

/-! ## The stages of PROCESS: the MIX clear -/

@[simp] theorem stageClearMix_ill (n : Nat) (s : State) : (stageClearMix n s).ill = s.ill := rfl
@[simp] theorem stageClearMix_busErr (n : Nat) (s : State) : (stageClearMix n s).busErr = s.busErr := rfl
@[simp] theorem stageClearMix_ctl (n : Nat) (s : State) : (stageClearMix n s).ctl = s.ctl := rfl
@[simp] theorem stageClearMix_phases (n : Nat) (s : State) : (stageClearMix n s).phases = s.phases := rfl
@[simp] theorem stageClearMix_env (n : Nat) (s : State) : (stageClearMix n s).env = s.env := rfl
@[simp] theorem stageClearMix_filt (n : Nat) (s : State) : (stageClearMix n s).filt = s.filt := rfl
@[simp] theorem stageClearMix_progress (n : Nat) (s : State) : (stageClearMix n s).progress = s.progress := rfl
@[simp] theorem stageClearMix_snap (n : Nat) (s : State) : (stageClearMix n s).snap = s.snap := rfl
@[simp] theorem stageClearMix_scratch (n : Nat) (s : State) : (stageClearMix n s).scratch = s.scratch := rfl
@[simp] theorem stageClearMix_outbuf (n : Nat) (s : State) : (stageClearMix n s).outbuf = s.outbuf := rfl
@[simp] theorem stageClearMix_inbox (n : Nat) (s : State) : (stageClearMix n s).inbox = s.inbox := rfl
@[simp] theorem stageClearMix_pace (n : Nat) (s : State) : (stageClearMix n s).pace = s.pace := rfl
@[simp] theorem stageClearMix_lastRead (n : Nat) (s : State) : (stageClearMix n s).lastRead = s.lastRead := rfl
@[simp] theorem stageClearMix_noiseDraws (n : Nat) (s : State) : (stageClearMix n s).noiseDraws = s.noiseDraws := rfl
@[simp] theorem stageClearMix_busyReads (n : Nat) (s : State) : (stageClearMix n s).busyReads = s.busyReads := rfl
@[simp] theorem stageClearMix_resets (n : Nat) (s : State) : (stageClearMix n s).resets = s.resets := rfl

@[simp] theorem stageClearMix_mix (n : Nat) (s : State) : (stageClearMix n s).mix = List.replicate n zeroFrame := rfl

/-! ## One oscillator -/

@[simp] theorem stageOscillator_ill (c : Cfg) (n : Nat) (k : OscId) (s : State) : (stageOscillator c n k s).ill = s.ill := by unfold stageOscillator; split <;> rfl
@[simp] theorem stageOscillator_busErr (c : Cfg) (n : Nat) (k : OscId) (s : State) : (stageOscillator c n k s).busErr = s.busErr := by unfold stageOscillator; split <;> rfl
@[simp] theorem stageOscillator_ctl (c : Cfg) (n : Nat) (k : OscId) (s : State) : (stageOscillator c n k s).ctl = s.ctl := by unfold stageOscillator; split <;> rfl
@[simp] theorem stageOscillator_env (c : Cfg) (n : Nat) (k : OscId) (s : State) : (stageOscillator c n k s).env = s.env := by unfold stageOscillator; split <;> rfl
@[simp] theorem stageOscillator_filt (c : Cfg) (n : Nat) (k : OscId) (s : State) : (stageOscillator c n k s).filt = s.filt := by unfold stageOscillator; split <;> rfl
@[simp] theorem stageOscillator_progress (c : Cfg) (n : Nat) (k : OscId) (s : State) : (stageOscillator c n k s).progress = s.progress := by unfold stageOscillator; split <;> rfl
@[simp] theorem stageOscillator_snap (c : Cfg) (n : Nat) (k : OscId) (s : State) : (stageOscillator c n k s).snap = s.snap := by unfold stageOscillator; split <;> rfl
@[simp] theorem stageOscillator_outbuf (c : Cfg) (n : Nat) (k : OscId) (s : State) : (stageOscillator c n k s).outbuf = s.outbuf := by unfold stageOscillator; split <;> rfl
@[simp] theorem stageOscillator_inbox (c : Cfg) (n : Nat) (k : OscId) (s : State) : (stageOscillator c n k s).inbox = s.inbox := by unfold stageOscillator; split <;> rfl
@[simp] theorem stageOscillator_pace (c : Cfg) (n : Nat) (k : OscId) (s : State) : (stageOscillator c n k s).pace = s.pace := by unfold stageOscillator; split <;> rfl
@[simp] theorem stageOscillator_lastRead (c : Cfg) (n : Nat) (k : OscId) (s : State) : (stageOscillator c n k s).lastRead = s.lastRead := by unfold stageOscillator; split <;> rfl
@[simp] theorem stageOscillator_busyReads (c : Cfg) (n : Nat) (k : OscId) (s : State) : (stageOscillator c n k s).busyReads = s.busyReads := by unfold stageOscillator; split <;> rfl
@[simp] theorem stageOscillator_resets (c : Cfg) (n : Nat) (k : OscId) (s : State) : (stageOscillator c n k s).resets = s.resets := by unfold stageOscillator; split <;> rfl

theorem stageOscillator_disabled (c : Cfg) (n : Nat) (k : OscId) (s : State) (h : (s.snap.osc k).en = false) :
    stageOscillator c n k s = s := by simp [stageOscillator, h]

theorem stageOscillator_enabled (c : Cfg) (n : Nat) (k : OscId) (s : State) (h : (s.snap.osc k).en = true) :
    stageOscillator c n k s =
      { s with
        scratch := s.scratch.set k (oscillatorRun c n k s).frames
        phases := s.phases.set k (oscillatorRun c n k s).phase
        noiseDraws := (oscillatorRun c n k s).draws
        mix := List.zipWith addFrame s.mix (oscillatorRun c n k s).frames } := by simp [stageOscillator, h]

/-! ## The envelope -/

@[simp] theorem stageEnvelope_ill (c : Cfg) (s : State) : (stageEnvelope c s).ill = s.ill := rfl
@[simp] theorem stageEnvelope_busErr (c : Cfg) (s : State) : (stageEnvelope c s).busErr = s.busErr := rfl
@[simp] theorem stageEnvelope_ctl (c : Cfg) (s : State) : (stageEnvelope c s).ctl = s.ctl := rfl
@[simp] theorem stageEnvelope_phases (c : Cfg) (s : State) : (stageEnvelope c s).phases = s.phases := rfl
@[simp] theorem stageEnvelope_filt (c : Cfg) (s : State) : (stageEnvelope c s).filt = s.filt := rfl
@[simp] theorem stageEnvelope_progress (c : Cfg) (s : State) : (stageEnvelope c s).progress = s.progress := rfl
@[simp] theorem stageEnvelope_snap (c : Cfg) (s : State) : (stageEnvelope c s).snap = s.snap := rfl
@[simp] theorem stageEnvelope_scratch (c : Cfg) (s : State) : (stageEnvelope c s).scratch = s.scratch := rfl
@[simp] theorem stageEnvelope_outbuf (c : Cfg) (s : State) : (stageEnvelope c s).outbuf = s.outbuf := rfl
@[simp] theorem stageEnvelope_inbox (c : Cfg) (s : State) : (stageEnvelope c s).inbox = s.inbox := rfl
@[simp] theorem stageEnvelope_pace (c : Cfg) (s : State) : (stageEnvelope c s).pace = s.pace := rfl
@[simp] theorem stageEnvelope_lastRead (c : Cfg) (s : State) : (stageEnvelope c s).lastRead = s.lastRead := rfl
@[simp] theorem stageEnvelope_noiseDraws (c : Cfg) (s : State) : (stageEnvelope c s).noiseDraws = s.noiseDraws := rfl
@[simp] theorem stageEnvelope_busyReads (c : Cfg) (s : State) : (stageEnvelope c s).busyReads = s.busyReads := rfl
@[simp] theorem stageEnvelope_resets (c : Cfg) (s : State) : (stageEnvelope c s).resets = s.resets := rfl

/-! ## The filter -/

@[simp] theorem stageFilter_ill (c : Cfg) (s : State) : (stageFilter c s).ill = s.ill := rfl
@[simp] theorem stageFilter_busErr (c : Cfg) (s : State) : (stageFilter c s).busErr = s.busErr := rfl
@[simp] theorem stageFilter_ctl (c : Cfg) (s : State) : (stageFilter c s).ctl = s.ctl := rfl
@[simp] theorem stageFilter_phases (c : Cfg) (s : State) : (stageFilter c s).phases = s.phases := rfl
@[simp] theorem stageFilter_env (c : Cfg) (s : State) : (stageFilter c s).env = s.env := rfl
@[simp] theorem stageFilter_progress (c : Cfg) (s : State) : (stageFilter c s).progress = s.progress := rfl
@[simp] theorem stageFilter_snap (c : Cfg) (s : State) : (stageFilter c s).snap = s.snap := rfl
@[simp] theorem stageFilter_scratch (c : Cfg) (s : State) : (stageFilter c s).scratch = s.scratch := rfl
@[simp] theorem stageFilter_outbuf (c : Cfg) (s : State) : (stageFilter c s).outbuf = s.outbuf := rfl
@[simp] theorem stageFilter_inbox (c : Cfg) (s : State) : (stageFilter c s).inbox = s.inbox := rfl
@[simp] theorem stageFilter_pace (c : Cfg) (s : State) : (stageFilter c s).pace = s.pace := rfl
@[simp] theorem stageFilter_lastRead (c : Cfg) (s : State) : (stageFilter c s).lastRead = s.lastRead := rfl
@[simp] theorem stageFilter_noiseDraws (c : Cfg) (s : State) : (stageFilter c s).noiseDraws = s.noiseDraws := rfl
@[simp] theorem stageFilter_busyReads (c : Cfg) (s : State) : (stageFilter c s).busyReads = s.busyReads := rfl
@[simp] theorem stageFilter_resets (c : Cfg) (s : State) : (stageFilter c s).resets = s.resets := rfl

/-! ## Scaling -/

@[simp] theorem stageScale_ill (s : State) : (stageScale s).ill = s.ill := rfl
@[simp] theorem stageScale_busErr (s : State) : (stageScale s).busErr = s.busErr := rfl
@[simp] theorem stageScale_ctl (s : State) : (stageScale s).ctl = s.ctl := rfl
@[simp] theorem stageScale_phases (s : State) : (stageScale s).phases = s.phases := rfl
@[simp] theorem stageScale_env (s : State) : (stageScale s).env = s.env := rfl
@[simp] theorem stageScale_filt (s : State) : (stageScale s).filt = s.filt := rfl
@[simp] theorem stageScale_progress (s : State) : (stageScale s).progress = s.progress := rfl
@[simp] theorem stageScale_snap (s : State) : (stageScale s).snap = s.snap := rfl
@[simp] theorem stageScale_mix (s : State) : (stageScale s).mix = s.mix := rfl
@[simp] theorem stageScale_scratch (s : State) : (stageScale s).scratch = s.scratch := rfl
@[simp] theorem stageScale_inbox (s : State) : (stageScale s).inbox = s.inbox := rfl
@[simp] theorem stageScale_pace (s : State) : (stageScale s).pace = s.pace := rfl
@[simp] theorem stageScale_lastRead (s : State) : (stageScale s).lastRead = s.lastRead := rfl
@[simp] theorem stageScale_noiseDraws (s : State) : (stageScale s).noiseDraws = s.noiseDraws := rfl
@[simp] theorem stageScale_busyReads (s : State) : (stageScale s).busyReads = s.busyReads := rfl
@[simp] theorem stageScale_resets (s : State) : (stageScale s).resets = s.resets := rfl

@[simp] theorem stageScale_outbuf (s : State) :
    (stageScale s).outbuf = writeFrames s.outbuf outbufBase (outputFrames s) := rfl

/-! ## Completion -/

@[simp] theorem stageComplete_ill (s : State) : (stageComplete s).ill = s.ill := rfl
@[simp] theorem stageComplete_busErr (s : State) : (stageComplete s).busErr = s.busErr := rfl
@[simp] theorem stageComplete_ctl (s : State) : (stageComplete s).ctl = s.ctl := rfl
@[simp] theorem stageComplete_phases (s : State) : (stageComplete s).phases = s.phases := rfl
@[simp] theorem stageComplete_env (s : State) : (stageComplete s).env = s.env := rfl
@[simp] theorem stageComplete_filt (s : State) : (stageComplete s).filt = s.filt := rfl
@[simp] theorem stageComplete_snap (s : State) : (stageComplete s).snap = s.snap := rfl
@[simp] theorem stageComplete_mix (s : State) : (stageComplete s).mix = s.mix := rfl
@[simp] theorem stageComplete_scratch (s : State) : (stageComplete s).scratch = s.scratch := rfl
@[simp] theorem stageComplete_outbuf (s : State) : (stageComplete s).outbuf = s.outbuf := rfl
@[simp] theorem stageComplete_inbox (s : State) : (stageComplete s).inbox = s.inbox := rfl
@[simp] theorem stageComplete_pace (s : State) : (stageComplete s).pace = s.pace := rfl
@[simp] theorem stageComplete_lastRead (s : State) : (stageComplete s).lastRead = s.lastRead := rfl
@[simp] theorem stageComplete_noiseDraws (s : State) : (stageComplete s).noiseDraws = s.noiseDraws := rfl
@[simp] theorem stageComplete_busyReads (s : State) : (stageComplete s).busyReads = s.busyReads := rfl
@[simp] theorem stageComplete_resets (s : State) : (stageComplete s).resets = s.resets := rfl

@[simp] theorem stageComplete_progress (s : State) : (stageComplete s).progress = none := rfl
@[simp] theorem stageComplete_busy (s : State) : (stageComplete s).busy = false := rfl

/-! ## Any stage -/

@[simp] theorem stageWork_ill (c : Cfg) (p : Progress) (s : State) : (stageWork c p s).ill = s.ill := by unfold stageWork; split <;> simp
@[simp] theorem stageWork_busErr (c : Cfg) (p : Progress) (s : State) : (stageWork c p s).busErr = s.busErr := by unfold stageWork; split <;> simp
@[simp] theorem stageWork_ctl (c : Cfg) (p : Progress) (s : State) : (stageWork c p s).ctl = s.ctl := by unfold stageWork; split <;> simp
@[simp] theorem stageWork_snap (c : Cfg) (p : Progress) (s : State) : (stageWork c p s).snap = s.snap := by unfold stageWork; split <;> simp
@[simp] theorem stageWork_inbox (c : Cfg) (p : Progress) (s : State) : (stageWork c p s).inbox = s.inbox := by unfold stageWork; split <;> simp
@[simp] theorem stageWork_pace (c : Cfg) (p : Progress) (s : State) : (stageWork c p s).pace = s.pace := by unfold stageWork; split <;> simp
@[simp] theorem stageWork_lastRead (c : Cfg) (p : Progress) (s : State) : (stageWork c p s).lastRead = s.lastRead := by unfold stageWork; split <;> simp
@[simp] theorem stageWork_busyReads (c : Cfg) (p : Progress) (s : State) : (stageWork c p s).busyReads = s.busyReads := by unfold stageWork; split <;> simp
@[simp] theorem stageWork_resets (c : Cfg) (p : Progress) (s : State) : (stageWork c p s).resets = s.resets := by unfold stageWork; split <;> simp

/-! ## One stage of the running PROCESS -/

@[simp] theorem runStage_ill (c : Cfg) (s : State) : (runStage c s).ill = s.ill := by unfold runStage; split <;> simp
@[simp] theorem runStage_busErr (c : Cfg) (s : State) : (runStage c s).busErr = s.busErr := by unfold runStage; split <;> simp
@[simp] theorem runStage_ctl (c : Cfg) (s : State) : (runStage c s).ctl = s.ctl := by unfold runStage; split <;> simp
@[simp] theorem runStage_snap (c : Cfg) (s : State) : (runStage c s).snap = s.snap := by unfold runStage; split <;> simp
@[simp] theorem runStage_inbox (c : Cfg) (s : State) : (runStage c s).inbox = s.inbox := by unfold runStage; split <;> simp
@[simp] theorem runStage_pace (c : Cfg) (s : State) : (runStage c s).pace = s.pace := by unfold runStage; split <;> simp
@[simp] theorem runStage_lastRead (c : Cfg) (s : State) : (runStage c s).lastRead = s.lastRead := by unfold runStage; split <;> simp
@[simp] theorem runStage_busyReads (c : Cfg) (s : State) : (runStage c s).busyReads = s.busyReads := by unfold runStage; split <;> simp
@[simp] theorem runStage_resets (c : Cfg) (s : State) : (runStage c s).resets = s.resets := by unfold runStage; split <;> simp

/-! ## Several stages -/

@[simp] theorem runStages_ill (c : Cfg) (n : Nat) (s : State) : (runStages c n s).ill = s.ill := by induction n generalizing s <;> simp_all [runStages]
@[simp] theorem runStages_busErr (c : Cfg) (n : Nat) (s : State) : (runStages c n s).busErr = s.busErr := by induction n generalizing s <;> simp_all [runStages]
@[simp] theorem runStages_ctl (c : Cfg) (n : Nat) (s : State) : (runStages c n s).ctl = s.ctl := by induction n generalizing s <;> simp_all [runStages]
@[simp] theorem runStages_snap (c : Cfg) (n : Nat) (s : State) : (runStages c n s).snap = s.snap := by induction n generalizing s <;> simp_all [runStages]
@[simp] theorem runStages_inbox (c : Cfg) (n : Nat) (s : State) : (runStages c n s).inbox = s.inbox := by induction n generalizing s <;> simp_all [runStages]
@[simp] theorem runStages_pace (c : Cfg) (n : Nat) (s : State) : (runStages c n s).pace = s.pace := by induction n generalizing s <;> simp_all [runStages]
@[simp] theorem runStages_lastRead (c : Cfg) (n : Nat) (s : State) : (runStages c n s).lastRead = s.lastRead := by induction n generalizing s <;> simp_all [runStages]
@[simp] theorem runStages_busyReads (c : Cfg) (n : Nat) (s : State) : (runStages c n s).busyReads = s.busyReads := by induction n generalizing s <;> simp_all [runStages]
@[simp] theorem runStages_resets (c : Cfg) (n : Nat) (s : State) : (runStages c n s).resets = s.resets := by induction n generalizing s <;> simp_all [runStages]

/-! ## Waiting until BUSY = 0 -/

@[simp] theorem awaitIdle_ill (c : Cfg) (s : State) : (awaitIdle c s).ill = s.ill := by simp [awaitIdle]
@[simp] theorem awaitIdle_busErr (c : Cfg) (s : State) : (awaitIdle c s).busErr = s.busErr := by simp [awaitIdle]
@[simp] theorem awaitIdle_ctl (c : Cfg) (s : State) : (awaitIdle c s).ctl = s.ctl := by simp [awaitIdle]
@[simp] theorem awaitIdle_snap (c : Cfg) (s : State) : (awaitIdle c s).snap = s.snap := by simp [awaitIdle]
@[simp] theorem awaitIdle_inbox (c : Cfg) (s : State) : (awaitIdle c s).inbox = s.inbox := by simp [awaitIdle]
@[simp] theorem awaitIdle_pace (c : Cfg) (s : State) : (awaitIdle c s).pace = s.pace := by simp [awaitIdle]
@[simp] theorem awaitIdle_lastRead (c : Cfg) (s : State) : (awaitIdle c s).lastRead = s.lastRead := by simp [awaitIdle]
@[simp] theorem awaitIdle_busyReads (c : Cfg) (s : State) : (awaitIdle c s).busyReads = s.busyReads := by simp [awaitIdle]
@[simp] theorem awaitIdle_resets (c : Cfg) (s : State) : (awaitIdle c s).resets = s.resets := by simp [awaitIdle]

/-! ## A whole PROCESS -/

/-- What a whole PROCESS leaves unchanged, and what it leaves in the latch and in the progress. -/
theorem processWhole_frame (c : Cfg) (n : Nat) (s : State) :
    (processWhole c n s).ill = s.ill ∧ (processWhole c n s).busErr = s.busErr ∧ (processWhole c n s).ctl = s.ctl ∧
    (processWhole c n s).inbox = s.inbox ∧ (processWhole c n s).pace = s.pace ∧
    (processWhole c n s).lastRead = s.lastRead ∧ (processWhole c n s).busyReads = s.busyReads ∧
    (processWhole c n s).resets = s.resets ∧ (processWhole c n s).snap = s.ctl ∧
    (processWhole c n s).progress = none := by simp [processWhole]

theorem processWhole_busy (c : Cfg) (n : Nat) (s : State) : (processWhole c n s).busy = false := by
  simp [State.busy, (processWhole_frame c n s).2.2.2.2.2.2.2.2.2]

/-! ## NOTE_ON -/

/-- What NOTE_ON leaves unchanged. -/
theorem noteOnEffect_frame (c : Cfg) (n : Int) (s : State) :
    (noteOnEffect c n s).ill = s.ill ∧ (noteOnEffect c n s).busErr = s.busErr ∧
    (noteOnEffect c n s).phases = s.phases ∧ (noteOnEffect c n s).filt = s.filt ∧
    (noteOnEffect c n s).progress = s.progress ∧ (noteOnEffect c n s).snap = s.snap ∧
    (noteOnEffect c n s).mix = s.mix ∧ (noteOnEffect c n s).scratch = s.scratch ∧
    (noteOnEffect c n s).outbuf = s.outbuf ∧ (noteOnEffect c n s).inbox = s.inbox ∧
    (noteOnEffect c n s).pace = s.pace ∧ (noteOnEffect c n s).lastRead = s.lastRead ∧
    (noteOnEffect c n s).noiseDraws = s.noiseDraws ∧ (noteOnEffect c n s).busyReads = s.busyReads ∧
    (noteOnEffect c n s).resets = s.resets :=
  ⟨rfl, rfl, rfl, rfl, rfl, rfl, rfl, rfl, rfl, rfl, rfl, rfl, rfl, rfl, rfl⟩

/-! ## NOTE_OFF -/

@[simp] theorem noteOffEffect_ill (s : State) : (noteOffEffect s).ill = s.ill := rfl
@[simp] theorem noteOffEffect_busErr (s : State) : (noteOffEffect s).busErr = s.busErr := rfl
@[simp] theorem noteOffEffect_phases (s : State) : (noteOffEffect s).phases = s.phases := rfl
@[simp] theorem noteOffEffect_filt (s : State) : (noteOffEffect s).filt = s.filt := rfl
@[simp] theorem noteOffEffect_progress (s : State) : (noteOffEffect s).progress = s.progress := rfl
@[simp] theorem noteOffEffect_snap (s : State) : (noteOffEffect s).snap = s.snap := rfl
@[simp] theorem noteOffEffect_mix (s : State) : (noteOffEffect s).mix = s.mix := rfl
@[simp] theorem noteOffEffect_scratch (s : State) : (noteOffEffect s).scratch = s.scratch := rfl
@[simp] theorem noteOffEffect_outbuf (s : State) : (noteOffEffect s).outbuf = s.outbuf := rfl
@[simp] theorem noteOffEffect_inbox (s : State) : (noteOffEffect s).inbox = s.inbox := rfl
@[simp] theorem noteOffEffect_pace (s : State) : (noteOffEffect s).pace = s.pace := rfl
@[simp] theorem noteOffEffect_lastRead (s : State) : (noteOffEffect s).lastRead = s.lastRead := rfl
@[simp] theorem noteOffEffect_noiseDraws (s : State) : (noteOffEffect s).noiseDraws = s.noiseDraws := rfl
@[simp] theorem noteOffEffect_busyReads (s : State) : (noteOffEffect s).busyReads = s.busyReads := rfl
@[simp] theorem noteOffEffect_resets (s : State) : (noteOffEffect s).resets = s.resets := rfl

/-! ## Host writes -/

@[simp] theorem writeStatus_ctl (v : Word) (s : State) : (writeStatus v s).ctl = s.ctl := rfl
@[simp] theorem writeStatus_phases (v : Word) (s : State) : (writeStatus v s).phases = s.phases := rfl
@[simp] theorem writeStatus_env (v : Word) (s : State) : (writeStatus v s).env = s.env := rfl
@[simp] theorem writeStatus_filt (v : Word) (s : State) : (writeStatus v s).filt = s.filt := rfl
@[simp] theorem writeStatus_progress (v : Word) (s : State) : (writeStatus v s).progress = s.progress := rfl
@[simp] theorem writeStatus_snap (v : Word) (s : State) : (writeStatus v s).snap = s.snap := rfl
@[simp] theorem writeStatus_mix (v : Word) (s : State) : (writeStatus v s).mix = s.mix := rfl
@[simp] theorem writeStatus_scratch (v : Word) (s : State) : (writeStatus v s).scratch = s.scratch := rfl
@[simp] theorem writeStatus_outbuf (v : Word) (s : State) : (writeStatus v s).outbuf = s.outbuf := rfl
@[simp] theorem writeStatus_inbox (v : Word) (s : State) : (writeStatus v s).inbox = s.inbox := rfl
@[simp] theorem writeStatus_pace (v : Word) (s : State) : (writeStatus v s).pace = s.pace := rfl
@[simp] theorem writeStatus_lastRead (v : Word) (s : State) : (writeStatus v s).lastRead = s.lastRead := rfl
@[simp] theorem writeStatus_noiseDraws (v : Word) (s : State) : (writeStatus v s).noiseDraws = s.noiseDraws := rfl
@[simp] theorem writeStatus_busyReads (v : Word) (s : State) : (writeStatus v s).busyReads = s.busyReads := rfl
@[simp] theorem writeStatus_resets (v : Word) (s : State) : (writeStatus v s).resets = s.resets := rfl

/-! ## Host writes to a register -/

@[simp] theorem writeReg_phases (r : Reg) (v : Word) (s : State) : (writeReg r v s).phases = s.phases := by cases r <;> rfl
@[simp] theorem writeReg_env (r : Reg) (v : Word) (s : State) : (writeReg r v s).env = s.env := by cases r <;> rfl
@[simp] theorem writeReg_filt (r : Reg) (v : Word) (s : State) : (writeReg r v s).filt = s.filt := by cases r <;> rfl
@[simp] theorem writeReg_progress (r : Reg) (v : Word) (s : State) : (writeReg r v s).progress = s.progress := by cases r <;> rfl
@[simp] theorem writeReg_snap (r : Reg) (v : Word) (s : State) : (writeReg r v s).snap = s.snap := by cases r <;> rfl
@[simp] theorem writeReg_mix (r : Reg) (v : Word) (s : State) : (writeReg r v s).mix = s.mix := by cases r <;> rfl
@[simp] theorem writeReg_scratch (r : Reg) (v : Word) (s : State) : (writeReg r v s).scratch = s.scratch := by cases r <;> rfl
@[simp] theorem writeReg_outbuf (r : Reg) (v : Word) (s : State) : (writeReg r v s).outbuf = s.outbuf := by cases r <;> rfl
@[simp] theorem writeReg_inbox (r : Reg) (v : Word) (s : State) : (writeReg r v s).inbox = s.inbox := by cases r <;> rfl
@[simp] theorem writeReg_pace (r : Reg) (v : Word) (s : State) : (writeReg r v s).pace = s.pace := by cases r <;> rfl
@[simp] theorem writeReg_lastRead (r : Reg) (v : Word) (s : State) : (writeReg r v s).lastRead = s.lastRead := by cases r <;> rfl
@[simp] theorem writeReg_noiseDraws (r : Reg) (v : Word) (s : State) : (writeReg r v s).noiseDraws = s.noiseDraws := by cases r <;> rfl
@[simp] theorem writeReg_busyReads (r : Reg) (v : Word) (s : State) : (writeReg r v s).busyReads = s.busyReads := by cases r <;> rfl
@[simp] theorem writeReg_resets (r : Reg) (v : Word) (s : State) : (writeReg r v s).resets = s.resets := by cases r <;> rfl

/-! ## Host reads -/

@[simp] theorem busRead_ill (c : Cfg) (off : Offset) (size : AccessSize) (s : State) : (busRead c off size s).ill = s.ill := by
  unfold busRead; split
  · simp
  · split <;> rfl
@[simp] theorem busRead_ctl (c : Cfg) (off : Offset) (size : AccessSize) (s : State) : (busRead c off size s).ctl = s.ctl := by
  unfold busRead; split
  · simp
  · split <;> rfl
@[simp] theorem busRead_phases (c : Cfg) (off : Offset) (size : AccessSize) (s : State) : (busRead c off size s).phases = s.phases := by
  unfold busRead; split
  · simp
  · split <;> rfl
@[simp] theorem busRead_env (c : Cfg) (off : Offset) (size : AccessSize) (s : State) : (busRead c off size s).env = s.env := by
  unfold busRead; split
  · simp
  · split <;> rfl
@[simp] theorem busRead_filt (c : Cfg) (off : Offset) (size : AccessSize) (s : State) : (busRead c off size s).filt = s.filt := by
  unfold busRead; split
  · simp
  · split <;> rfl
@[simp] theorem busRead_progress (c : Cfg) (off : Offset) (size : AccessSize) (s : State) : (busRead c off size s).progress = s.progress := by
  unfold busRead; split
  · simp
  · split <;> rfl
@[simp] theorem busRead_snap (c : Cfg) (off : Offset) (size : AccessSize) (s : State) : (busRead c off size s).snap = s.snap := by
  unfold busRead; split
  · simp
  · split <;> rfl
@[simp] theorem busRead_mix (c : Cfg) (off : Offset) (size : AccessSize) (s : State) : (busRead c off size s).mix = s.mix := by
  unfold busRead; split
  · simp
  · split <;> rfl
@[simp] theorem busRead_scratch (c : Cfg) (off : Offset) (size : AccessSize) (s : State) : (busRead c off size s).scratch = s.scratch := by
  unfold busRead; split
  · simp
  · split <;> rfl
@[simp] theorem busRead_outbuf (c : Cfg) (off : Offset) (size : AccessSize) (s : State) : (busRead c off size s).outbuf = s.outbuf := by
  unfold busRead; split
  · simp
  · split <;> rfl
@[simp] theorem busRead_inbox (c : Cfg) (off : Offset) (size : AccessSize) (s : State) : (busRead c off size s).inbox = s.inbox := by
  unfold busRead; split
  · simp
  · split <;> rfl
@[simp] theorem busRead_pace (c : Cfg) (off : Offset) (size : AccessSize) (s : State) : (busRead c off size s).pace = s.pace := by
  unfold busRead; split
  · simp
  · split <;> rfl
@[simp] theorem busRead_noiseDraws (c : Cfg) (off : Offset) (size : AccessSize) (s : State) : (busRead c off size s).noiseDraws = s.noiseDraws := by
  unfold busRead; split
  · simp
  · split <;> rfl
@[simp] theorem busRead_resets (c : Cfg) (off : Offset) (size : AccessSize) (s : State) : (busRead c off size s).resets = s.resets := by
  unfold busRead; split
  · simp
  · split <;> rfl

/-! ## Host writes to any offset -/

theorem busWrite_frame (c : Cfg) (off : Offset) (size : AccessSize) (lanes : BitVec 4) (v : Word) (s : State) :
    ∃ ctl ill busErr, busWrite c off size lanes v s = { s with ctl := ctl, ill := ill, busErr := busErr } := by
  unfold busWrite
  split
  · exact ⟨s.ctl, s.ill, true, rfl⟩
  · rename_i r _
    exact ⟨(writeReg r v s).ctl, (writeReg r v s).ill, (writeReg r v s).busErr, by cases r <;> rfl⟩
  · exact ⟨s.ctl, s.ill, s.busErr, rfl⟩

/-! ## Reset -/

@[simp] theorem applyReset_inbox (s : State) : (applyReset s).inbox = s.inbox := rfl
@[simp] theorem applyReset_pace (s : State) : (applyReset s).pace = s.pace := rfl
@[simp] theorem applyReset_noiseDraws (s : State) : (applyReset s).noiseDraws = s.noiseDraws := rfl
@[simp] theorem applyReset_busyReads (s : State) : (applyReset s).busyReads = s.busyReads := rfl
@[simp] theorem applyReset_resets (s : State) : (applyReset s).resets = s.resets + 1 := rfl

@[simp] theorem applyReset_ill (s : State) : (applyReset s).ill = State.reset.ill := rfl
@[simp] theorem applyReset_busErr (s : State) : (applyReset s).busErr = State.reset.busErr := rfl
@[simp] theorem applyReset_ctl (s : State) : (applyReset s).ctl = State.reset.ctl := rfl
@[simp] theorem applyReset_phases (s : State) : (applyReset s).phases = State.reset.phases := rfl
@[simp] theorem applyReset_env (s : State) : (applyReset s).env = State.reset.env := rfl
@[simp] theorem applyReset_filt (s : State) : (applyReset s).filt = State.reset.filt := rfl
@[simp] theorem applyReset_progress (s : State) : (applyReset s).progress = State.reset.progress := rfl
@[simp] theorem applyReset_snap (s : State) : (applyReset s).snap = State.reset.snap := rfl
@[simp] theorem applyReset_mix (s : State) : (applyReset s).mix = State.reset.mix := rfl
@[simp] theorem applyReset_scratch (s : State) : (applyReset s).scratch = State.reset.scratch := rfl
@[simp] theorem applyReset_outbuf (s : State) : (applyReset s).outbuf = State.reset.outbuf := rfl
@[simp] theorem applyReset_lastRead (s : State) : (applyReset s).lastRead = State.reset.lastRead := rfl

/-! ## One oscillator's registers -/

@[simp] theorem Phases.get_set_same (p : Phases) (k : OscId) (v : F32) : (p.set k v).get k = v := by cases k <;> rfl

@[simp] theorem Phases.get_set_other (p : Phases) (k j : OscId) (v : F32) (h : j ≠ k) : (p.set k v).get j = p.get j := by
  cases k <;> cases j <;> first | rfl | exact absurd rfl h

@[simp] theorem Scratch.get_set_same (x : Scratch) (k : OscId) (v : List Frame) : (x.set k v).get k = v := by
  cases k <;> rfl

@[simp] theorem Scratch.get_set_other (x : Scratch) (k j : OscId) (v : List Frame) (h : j ≠ k) :
    (x.set k v).get j = x.get j := by
  cases k <;> cases j <;> first | rfl | exact absurd rfl h

@[simp] theorem State.reset_busy : State.reset.busy = false := rfl

end Sys2Proof.Machine
end

