-- ==== Sys2Proof/Laws/Memory.lean ====
section
/-! SUPPORT. OUTBUF as cells: reads after writes, the canonical form under every write, and the bytes a block write leaves alone. -/

namespace Sys2Proof.Machine

/-! ## One byte -/

@[simp] theorem readByte_nil (a : Nat) : readByte [] a = none := rfl

@[simp] theorem readByte_writeByte_same (m : Memory) (a : Nat) (b : Byte) : readByte (writeByte m a b) a = some b := by
  induction m with
  | nil => simp [writeByte, readByte]
  | cons cell rest ih =>
    obtain ⟨k, x⟩ := cell
    by_cases h1 : a < k
    · simp [writeByte, readByte, h1]
    · by_cases h2 : a = k
      · simp [writeByte, readByte, h2]
      · simp [writeByte, readByte, h1, h2, ih, Ne.symm h2]

theorem readByte_writeByte_other (m : Memory) (a x : Nat) (b : Byte) (h : x ≠ a) :
    readByte (writeByte m a b) x = readByte m x := by
  induction m with
  | nil => simp [writeByte, readByte, h.symm, Memory.unlisted]
  | cons cell rest ih =>
    obtain ⟨k, y⟩ := cell
    by_cases h1 : a < k
    · simp [writeByte, readByte, h1, h.symm]
    · by_cases h2 : a = k
      · subst h2
        simp [writeByte, readByte, h.symm]
      · rw [writeByte, if_neg h1, if_neg h2, readByte, readByte, ih]

/-- The offsets a write lists are the old ones and the written one. -/
theorem mem_writeByte (m : Memory) (a : Nat) (b : Byte) (cell : Host.Cell) (h : cell ∈ writeByte m a b) :
    cell = (a, b) ∨ cell ∈ m := by
  induction m with
  | nil => simp_all [writeByte]
  | cons head rest ih =>
    obtain ⟨k, x⟩ := head
    simp only [writeByte] at h
    split at h
    · simp_all
    · split at h
      · simp_all
        tauto
      · simp only [List.mem_cons] at h ⊢
        rcases h with h | h
        · exact .inr (.inl h)
        · rcases ih h with h | h
          · exact .inl h
          · exact .inr (.inr h)

/-- A byte write keeps the canonical form. -/
theorem wf_writeByte (m : Memory) (a : Nat) (b : Byte) (h : Memory.wf m = true) : Memory.wf (writeByte m a b) = true := by
  induction m with
  | nil => simp [writeByte, Memory.wf]
  | cons head rest ih =>
    obtain ⟨k, x⟩ := head
    simp only [Memory.wf, Bool.and_eq_true, List.all_eq_true, decide_eq_true_eq] at h
    obtain ⟨hk, hr⟩ := h
    simp only [writeByte]
    split
    · rename_i hlt
      simp only [Memory.wf, Bool.and_eq_true, List.all_eq_true, decide_eq_true_eq, List.mem_cons]
      refine ⟨?_, hk, hr⟩
      rintro cell (rfl | hc)
      · exact hlt
      · exact lt_trans hlt (hk cell hc)
    · split
      · rename_i _ heq
        subst heq
        simp only [Memory.wf, Bool.and_eq_true, List.all_eq_true, decide_eq_true_eq]
        exact ⟨hk, hr⟩
      · rename_i h1 h2
        simp only [Memory.wf, Bool.and_eq_true, List.all_eq_true, decide_eq_true_eq]
        refine ⟨?_, ih hr⟩
        intro cell hc
        rcases mem_writeByte rest a b cell hc with rfl | hc
        · exact lt_of_le_of_ne (not_lt.mp h1) (Ne.symm h2)
        · exact hk cell hc

/-! ## One word -/

theorem wf_writeWord (m : Memory) (a : Nat) (w : Word) (h : Memory.wf m = true) : Memory.wf (writeWord m a w) = true := by
  unfold writeWord
  exact wf_writeByte _ _ _ (wf_writeByte _ _ _ (wf_writeByte _ _ _ (wf_writeByte _ _ _ h)))

/-- A word write changes no byte outside its four. -/
theorem readByte_writeWord_other (m : Memory) (a x : Nat) (w : Word) (h : x < a ∨ a + 4 ≤ x) :
    readByte (writeWord m a w) x = readByte m x := by
  unfold writeWord
  rw [readByte_writeByte_other _ _ _ _ (by omega), readByte_writeByte_other _ _ _ _ (by omega),
    readByte_writeByte_other _ _ _ _ (by omega), readByte_writeByte_other _ _ _ _ (by omega)]

/-- A word write stores byte lane b at offset a + b (20_memory.md R104). -/
theorem readByte_writeWord_lane (m : Memory) (a : Nat) (w : Word) (b : Nat) (h : b < 4) :
    readByte (writeWord m a w) (a + b) = some (byteLane w b) := by
  have hb : b = 0 ∨ b = 1 ∨ b = 2 ∨ b = 3 := by omega
  unfold writeWord
  rcases hb with rfl | rfl | rfl | rfl
  · rw [readByte_writeByte_other _ _ _ _ (by omega), readByte_writeByte_other _ _ _ _ (by omega),
      readByte_writeByte_other _ _ _ _ (by omega)]
    exact readByte_writeByte_same _ _ _
  · rw [readByte_writeByte_other _ _ _ _ (by omega), readByte_writeByte_other _ _ _ _ (by omega)]
    exact readByte_writeByte_same _ _ _
  · rw [readByte_writeByte_other _ _ _ _ (by omega)]
    exact readByte_writeByte_same _ _ _
  · exact readByte_writeByte_same _ _ _

theorem mem_writeWord (m : Memory) (a : Nat) (w : Word) (cell : Host.Cell) (h : cell ∈ writeWord m a w) :
    (a ≤ cell.1 ∧ cell.1 < a + 4) ∨ cell ∈ m := by
  unfold writeWord at h
  rcases mem_writeByte _ _ _ _ h with rfl | h
  · left; simp
  rcases mem_writeByte _ _ _ _ h with rfl | h
  · left; simp
  rcases mem_writeByte _ _ _ _ h with rfl | h
  · left; simp
  rcases mem_writeByte _ _ _ _ h with rfl | h
  · left; simp
  · exact .inr h

/-! ## A block of frames -/

theorem wf_writeFrames (fs : List Frame) : ∀ (m : Memory) (a : Nat), Memory.wf m = true →
    Memory.wf (writeFrames m a fs) = true := by
  induction fs with
  | nil => intro m a h; exact h
  | cons f fs ih => intro m a h; exact ih _ _ (wf_writeWord _ _ _ (wf_writeWord _ _ _ h))

/-- A block write changes no byte outside its 8 bytes a frame. -/
theorem readByte_writeFrames_other (fs : List Frame) : ∀ (m : Memory) (a x : Nat), (x < a ∨ a + 8 * fs.length ≤ x) →
    readByte (writeFrames m a fs) x = readByte m x := by
  induction fs with
  | nil => intro m a x _; rfl
  | cons f fs ih =>
    intro m a x h
    simp only [List.length_cons] at h
    simp only [writeFrames]
    rw [ih _ _ _ (by omega), readByte_writeWord_other _ _ _ _ (by omega), readByte_writeWord_other _ _ _ _ (by omega)]

theorem mem_writeFrames (fs : List Frame) : ∀ (m : Memory) (a : Nat) (cell : Host.Cell), cell ∈ writeFrames m a fs →
    (a ≤ cell.1 ∧ cell.1 < a + 8 * fs.length) ∨ cell ∈ m := by
  induction fs with
  | nil => intro m a cell h; exact .inr h
  | cons f fs ih =>
    intro m a cell h
    simp only [writeFrames] at h
    simp only [List.length_cons]
    rcases ih _ _ _ h with h | h
    · left; omega
    rcases mem_writeWord _ _ _ _ h with h | h
    · left; omega
    rcases mem_writeWord _ _ _ _ h with h | h
    · left; omega
    · exact .inr h

/-- After a block write, frame i's left word stands at a + 8i and its right word at a + 8i + 4 (43_engine.md R333). -/
theorem readByte_writeFrames_lane (fs : List Frame) : ∀ (m : Memory) (a i b : Nat) (f : Frame), fs[i]? = some f → b < 4 →
    readByte (writeFrames m a fs) (a + 8 * i + b) = some (byteLane f.left b) ∧
    readByte (writeFrames m a fs) (a + 8 * i + 4 + b) = some (byteLane f.right b) := by
  induction fs with
  | nil => intro m a i b f h; simp at h
  | cons g fs ih =>
    intro m a i b f h hb
    simp only [writeFrames]
    cases i with
    | zero =>
      simp only [List.getElem?_cons_zero, Option.some.injEq] at h
      subst h
      rw [readByte_writeFrames_other _ _ _ _ (by omega), readByte_writeFrames_other _ _ _ _ (by omega)]
      constructor
      · rw [readByte_writeWord_other _ _ _ _ (by omega)]
        exact readByte_writeWord_lane _ _ _ _ hb
      · exact readByte_writeWord_lane _ _ _ _ hb
    | succ i =>
      simp only [List.getElem?_cons_succ] at h
      have := ih (writeWord (writeWord m a g.left) (a + 4) g.right) (a + 8) i b f h hb
      rw [show a + 8 * (i + 1) + b = a + 8 + 8 * i + b by omega, show a + 8 * (i + 1) + 4 + b = a + 8 + 8 * i + 4 + b by omega]
      exact this

/-! ## Every operation of the machine keeps the canonical form -/

theorem wf_stageScale (s : State) (h : Memory.wf s.outbuf = true) : Memory.wf (stageScale s).outbuf = true :=
  wf_writeFrames _ _ _ h

theorem reset_outbuf_wf : Memory.wf State.reset.outbuf = true := rfl

/-- The byte lanes of a word put together again. -/
theorem byteLane_append (w : Word) : byteLane w 3 ++ byteLane w 2 ++ byteLane w 1 ++ byteLane w 0 = w := by
  ext i hi
  simp only [byteLane, BitVec.getElem_append, BitVec.getElem_extractLsb']
  simp only [← BitVec.getLsbD_eq_getElem]
  split
  · congr 1; omega
  · split
    · congr 1; omega
    · split <;> (congr 1; omega)

end Sys2Proof.Machine
end

