-- ==== Sys2Proof/Laws/Engine.lean ====
section
/-! SUPPORT. What the shared operations of the engine can do: the stages of a PROCESS, waiting until BUSY = 0, the frame loops, and
the one inversion of the fetch. -/

namespace Sys2Proof.Machine

/-! ## Stages and waiting -/

theorem not_busy_iff (s : State) : s.busy = false ↔ s.progress = none := by
  unfold State.busy
  cases s.progress <;> simp

theorem runStage_idle (c : Cfg) (s : State) (h : s.progress = none) : runStage c s = s := by
  unfold runStage
  rw [h]

theorem runStages_idle (c : Cfg) (n : Nat) (s : State) (h : s.progress = none) : runStages c n s = s := by
  induction n with
  | zero => rfl
  | succ n ih => simp only [runStages, runStage_idle c s h, ih]

theorem awaitIdle_idle (c : Cfg) (s : State) (h : s.busy = false) : awaitIdle c s = s :=
  runStages_idle c _ s ((not_busy_iff s).mp h)

/-- One stage moves the progress on by one stage. -/
theorem runStage_progress (c : Cfg) (s : State) (p : Progress) (h : s.progress = some p) :
    (runStage c s).progress = (nextStage p.stage).map (fun st => { frames := p.frames, stage := st }) := by
  unfold runStage
  rw [h]

theorem runStages_add (c : Cfg) (m n : Nat) (s : State) : runStages c (m + n) s = runStages c n (runStages c m s) := by
  induction m generalizing s with
  | zero => simp [runStages]
  | succ m ih => rw [Nat.succ_add]; exact ih _

/-- How many stages are left, the running one included. -/
def stagesLeft : Stage → Nat
  | .clearMix => 8
  | .oscillator .osc0 => 7
  | .oscillator .osc1 => 6
  | .oscillator .osc2 => 5
  | .envelope => 4
  | .filter => 3
  | .scale => 2
  | .complete => 1

theorem stagesLeft_bounds (st : Stage) : 1 ≤ stagesLeft st ∧ stagesLeft st ≤ stageCount := by
  cases st with
  | oscillator k => cases k <;> decide
  | _ => decide

/-- The stage after a stage has one stage fewer left. -/
theorem stagesLeft_nextStage (st st' : Stage) (h : nextStage st = some st') : stagesLeft st' + 1 = stagesLeft st := by
  cases st with
  | oscillator k => cases k <;> (cases h; rfl)
  | complete => cases h
  | _ => cases h; rfl

/-- After as many stages as are left, none runs. -/
theorem runStages_completes (c : Cfg) (n : Nat) : ∀ (s : State) (p : Progress), s.progress = some p → stagesLeft p.stage ≤ n →
    (runStages c n s).progress = none := by
  induction n with
  | zero => intro s p _ h; exact absurd (stagesLeft_bounds p.stage).1 (by omega)
  | succ n ih =>
    intro s p hp hn
    simp only [runStages]
    have hr := runStage_progress c s p hp
    obtain ⟨fr, st⟩ := p
    cases hst : nextStage st with
    | none =>
      simp only [hst, Option.map_none] at hr
      rw [runStages_idle c n _ hr, hr]
    | some st' =>
      simp only [hst, Option.map_some] at hr
      refine ih _ _ hr ?_
      have := stagesLeft_nextStage st st' hst
      simp only at hn ⊢
      omega

/-- After waiting, BUSY is 0 (70_reset_and_hazards.md R421). -/
theorem awaitIdle_not_busy (c : Cfg) (s : State) : (awaitIdle c s).busy = false := by
  rw [not_busy_iff]
  cases h : s.progress with
  | none => rw [awaitIdle, runStages_idle c _ s h, h]
  | some p => exact runStages_completes c _ s p h (stagesLeft_bounds p.stage).2

/-! ## The frame loops -/

@[simp] theorem oscFrames_length (c : Cfg) (wave : Wave) (inc : F32) (n : Nat) : ∀ (p : F32) (d : Nat),
    (oscFrames c wave inc n p d).frames.length = n := by
  induction n with
  | zero => intro p d; rfl
  | succ n ih => intro p d; simp [oscFrames, ih]

@[simp] theorem envApply_length (fs : List Frame) : ∀ e : Envelope, (envApply e fs).1.length = fs.length := by
  induction fs with
  | nil => intro e; rfl
  | cons f fs ih => intro e; simp [envApply, ih]

@[simp] theorem filterFrames_length (c : Cfg) (snap : Controls) (linc : F32) (fs : List Frame) : ∀ u : FilterUnit,
    (filterFrames c snap linc u fs).1.length = fs.length := by
  induction fs with
  | nil => intro u; rfl
  | cons f fs ih => intro u; simp [filterFrames, ih]

@[simp] theorem outputFrames_length (s : State) : (outputFrames s).length = s.mix.length := by simp [outputFrames]

/-- The phase a generation leaves: one advance a frame. -/
theorem oscFrames_phase (c : Cfg) (wave : Wave) (inc : F32) (n : Nat) : ∀ (p : F32) (d : Nat),
    (oscFrames c wave inc n p d).phase = (fun q => oscAdv q inc)^[n] p := by
  induction n with
  | zero => intro p d; rfl
  | succ n ih => intro p d; simp [oscFrames, ih]

/-- The draws a generation makes. -/
theorem oscFrames_draws (c : Cfg) (wave : Wave) (inc : F32) (n : Nat) : ∀ (p : F32) (d : Nat),
    (oscFrames c wave inc n p d).draws = d + n * drawsPerFrame wave := by
  induction n with
  | zero => intro p d; simp [oscFrames]
  | succ n ih => intro p d; simp [oscFrames, ih, Nat.succ_mul]; omega

/-- The sample of frame i: the waveform at the phase after i advances, in both lanes. -/
theorem oscFrames_getElem? (c : Cfg) (wave : Wave) (inc : F32) (n : Nat) : ∀ (p : F32) (d i : Nat), i < n →
    (oscFrames c wave inc n p d).frames[i]? =
      some { left := oscValue c wave ((fun q => oscAdv q inc)^[i] p) (d + i * drawsPerFrame wave),
             right := oscValue c wave ((fun q => oscAdv q inc)^[i] p) (d + i * drawsPerFrame wave) } := by
  induction n with
  | zero => intro p d i h; omega
  | succ n ih =>
    intro p d i h
    cases i with
    | zero => simp [oscFrames]
    | succ i =>
      simp only [oscFrames, List.getElem?_cons_succ]
      rw [ih _ _ i (by omega), show d + drawsPerFrame wave + i * drawsPerFrame wave = d + (i + 1) * drawsPerFrame wave by
        rw [Nat.succ_mul]; omega]
      rfl

/-- The envelope a run over frames leaves: one step a frame. -/
theorem envApply_env (fs : List Frame) : ∀ e : Envelope, (envApply e fs).2 = envStep^[fs.length] e := by
  induction fs with
  | nil => intro e; rfl
  | cons f fs ih => intro e; simp [envApply, ih]

/-- The gain of frame i is the value after its own step. -/
theorem envApply_getElem? (fs : List Frame) : ∀ (e : Envelope) (i : Nat),
    (envApply e fs).1[i]? = fs[i]?.map (scaleFrame (envStep^[i + 1] e).value) := by
  induction fs with
  | nil => intro e i; simp [envApply]
  | cons f fs ih =>
    intro e i
    cases i with
    | zero => simp [envApply]
    | succ i => simp [envApply, ih]

/-- One frame advances the LFO once, whatever else it does. -/
theorem filterFrame_lfoPhase (c : Cfg) (snap : Controls) (linc : F32) (u : FilterUnit) (f : Frame) :
    (filterFrame c snap linc u f).2.lfoPhase = wrap (fadd u.lfoPhase linc) := by
  simp only [filterFrame, lfoAdv, filterSample, filtRecompute]
  split <;> rfl

/-- The LFO phase a run over frames leaves. -/
theorem filterFrames_lfoPhase (c : Cfg) (snap : Controls) (linc : F32) (fs : List Frame) : ∀ u : FilterUnit,
    (filterFrames c snap linc u fs).2.lfoPhase = (fun p => wrap (fadd p linc))^[fs.length] u.lfoPhase := by
  induction fs with
  | nil => intro u; rfl
  | cons f fs ih => intro u; simp [filterFrames, ih, filterFrame_lfoPhase]

/-! ## The register map -/

theorem regAt_regOffset (r : Reg) : regAt (regOffset r) = some r := by cases r <;> rfl

theorem regOffset_of_regAt (off : Offset) (r : Reg) (h : regAt off = some r) : regOffset r = off := by
  have := List.find?_some h
  simpa using this

/-- The command word a full write to CMD submits. -/
theorem submittedWord_cmdWrite (c : Cfg) (w : Word) : submittedWord c (cmdWrite w) = some w := rfl

/-! ## The next move -/

/-- Everything the fetch can do, by the move at the head. -/
theorem fetch_cases (s : State) :
    (s.inbox = [] ∧ fetch s = .moved (runStage Config.machine s)) ∨
    (∃ rest, s.inbox = .reset :: rest ∧ fetch s = .moved (applyReset { s with inbox := rest })) ∨
    (∃ rest, s.inbox = .engine :: rest ∧ fetch s = .moved (runStage Config.machine { s with inbox := rest })) ∨
    (∃ rest, s.inbox = .waitIdle :: rest ∧ fetch s = .moved (pollIdle rest s)) ∨
    (∃ a rest, s.inbox = .access a :: rest ∧ submittedWord Config.machine a = none ∧
      fetch s = .moved (busAccess Config.machine a { s with inbox := rest })) ∨
    (∃ a rest w, s.inbox = .access a :: rest ∧ submittedWord Config.machine a = some w ∧
      fetch s = fetchCommand w rest s) := by
  unfold fetch
  cases h : s.inbox with
  | nil => simp
  | cons mv rest =>
    cases mv with
    | reset => simp
    | engine => simp
    | waitIdle => simp
    | access a => cases hw : submittedWord Config.machine a <;> simp [hw]

end Sys2Proof.Machine
end

