-- ==== Sys2Proof/Laws/Float.lean ====
section
/-! SUPPORT. Rounding: a whole number of last places is left as it is, and rounding is monotone (00_scope.md R17). -/

namespace Sys2Proof.Machine

/-! ## roundNearest -/

theorem roundNearest_exact (q den : Nat) (h : 0 < den) : roundNearest (q * den) den = q := by
  unfold roundNearest
  rw [Nat.mul_mod_left, Nat.mul_div_cancel _ h, if_pos (by omega)]

/-- Half a unit on either side, in whole numbers. -/
theorem roundNearest_bounds (num den : Nat) (h : 0 < den) :
    2 * (roundNearest num den * den) ≤ 2 * num + den ∧ 2 * num ≤ 2 * (roundNearest num den * den) + den := by
  have hdm := Nat.div_add_mod num den
  have hlt := Nat.mod_lt num h
  have hmul : den * (num / den) = num / den * den := Nat.mul_comm _ _
  unfold roundNearest
  split
  · constructor <;> omega
  · split
    · rw [Nat.add_mul]; constructor <;> omega
    · rw [Nat.add_mul]
      rcases Nat.mod_two_eq_zero_or_one (num / den) with h0 | h0 <;> rw [h0] <;> constructor <;> omega

/-- Exactly half-way the result is even. -/
theorem roundNearest_tie (num den : Nat) (h : 0 < den) (ht : 2 * (roundNearest num den * den) = 2 * num + den ∨
    2 * num = 2 * (roundNearest num den * den) + den) : roundNearest num den % 2 = 0 := by
  have hdm := Nat.div_add_mod num den
  have hlt := Nat.mod_lt num h
  have hmul : den * (num / den) = num / den * den := Nat.mul_comm _ _
  unfold roundNearest at ht ⊢
  split at ht
  · omega
  · split at ht
    · rw [Nat.add_mul] at ht; omega
    · rename_i h1 h2
      rw [if_neg h1, if_neg h2]
      omega

theorem roundNearest_mono (a b c d : Nat) (hb : 0 < b) (hd : 0 < d) (h : a * d ≤ c * b) :
    roundNearest a b ≤ roundNearest c d := by
  by_contra hlt
  rw [not_le] at hlt
  obtain ⟨h1, -⟩ := roundNearest_bounds a b hb
  obtain ⟨-, h2⟩ := roundNearest_bounds c d hd
  have hx : roundNearest c d + 1 ≤ roundNearest a b := hlt
  set x := roundNearest a b with hxd
  set y := roundNearest c d with hyd
  -- scale both bounds to the common denominator b * d
  have e1 : 2 * (x * b) * d ≤ (2 * a + b) * d := Nat.mul_le_mul_right _ h1
  have e2 : 2 * c * b ≤ (2 * (y * d) + d) * b := Nat.mul_le_mul_right _ h2
  have e3 : (y + 1) * b * d ≤ x * b * d := Nat.mul_le_mul_right _ (Nat.mul_le_mul_right _ hx)
  have k1 : 2 * (x * b) * d = 2 * (x * b * d) := by ring
  have k2 : (2 * a + b) * d = 2 * (a * d) + b * d := by ring
  have k3 : 2 * c * b = 2 * (c * b) := by ring
  have k4 : (2 * (y * d) + d) * b = 2 * (y * b * d) + b * d := by ring
  have k5 : (y + 1) * b * d = y * b * d + b * d := by ring
  have hbd : 0 < b * d := Nat.mul_pos hb hd
  have hxy : x * b * d = y * b * d + b * d := by omega
  have hxy' : x = y + 1 := by
    have : x * (b * d) = (y + 1) * (b * d) := by rw [← Nat.mul_assoc, ← Nat.mul_assoc, k5]; exact hxy
    exact Nat.eq_of_mul_eq_mul_right hbd this
  have t1 : 2 * (x * b) = 2 * a + b := by
    have : 2 * (x * b) * d = (2 * a + b) * d := by omega
    exact Nat.eq_of_mul_eq_mul_right hd this
  have t2 : 2 * c = 2 * (y * d) + d := by
    have : 2 * c * b = (2 * (y * d) + d) * b := by omega
    exact Nat.eq_of_mul_eq_mul_right hb this
  have p1 := roundNearest_tie a b hb (.inl t1)
  have p2 := roundNearest_tie c d hd (.inr t2)
  omega

theorem roundNearest_le (num den k : Nat) (h : 0 < den) (hk : num ≤ k * den) : roundNearest num den ≤ k := by
  have := roundNearest_mono num den (k * den) den h h (Nat.mul_le_mul_right _ hk)
  rwa [roundNearest_exact k den h] at this

theorem le_roundNearest (num den k : Nat) (h : 0 < den) (hk : k * den ≤ num) : k ≤ roundNearest num den := by
  have := roundNearest_mono (k * den) den num den h h (Nat.mul_le_mul_right _ hk)
  rwa [roundNearest_exact k den h] at this

/-! ## roundMag -/

/-- The pattern of a finite magnitude is what its own number of units rounds to. -/
theorem roundMag_magUnits (m : Nat) (h : m ≤ infMag) : roundMag (magUnits m) 1 = m := by
  unfold roundMag magUnits
  by_cases h0 : m < 2 ^ 23
  · rw [if_pos h0, Nat.div_one]
    have hk : Nat.log2 m - 23 = 0 := by
      have : Nat.log2 m ≤ 23 := by
        rcases Nat.eq_zero_or_pos m with rfl | hp
        · decide
        · exact Nat.le_of_lt_succ ((Nat.log2_lt (by omega)).mpr (by omega))
      omega
    simp only [hk]
    have := roundNearest_exact m 1 (by decide)
    simp only [Nat.mul_one] at this
    simp only [Nat.pow_zero, Nat.mul_one, this]
    omega
  · rw [if_neg h0, Nat.div_one]
    have hE : 1 ≤ m / 2 ^ 23 := by omega
    have hf : m % 2 ^ 23 < 2 ^ 23 := Nat.mod_lt _ (by decide)
    have hlog : Nat.log2 ((2 ^ 23 + m % 2 ^ 23) * 2 ^ (m / 2 ^ 23 - 1)) = 23 + (m / 2 ^ 23 - 1) := by
      have hne : (2 ^ 23 + m % 2 ^ 23) * 2 ^ (m / 2 ^ 23 - 1) ≠ 0 := by positivity
      rw [Nat.log2_eq_iff hne, Nat.pow_add]
      constructor
      · exact Nat.mul_le_mul_right _ (by omega)
      · rw [show 23 + (m / 2 ^ 23 - 1) + 1 = 24 + (m / 2 ^ 23 - 1) by omega, Nat.pow_add]
        exact Nat.mul_lt_mul_of_pos_right (by omega) (by positivity)
    simp only [hlog, Nat.add_sub_cancel_left, Nat.one_mul]
    rw [roundNearest_exact _ _ (by positivity)]
    have hdm := Nat.div_add_mod m (2 ^ 23)
    have : (m / 2 ^ 23 - 1) * 2 ^ 23 + (2 ^ 23 + m % 2 ^ 23) = m := by omega
    rw [this]
    omega

theorem log2_le_log2 {a b : Nat} (h : a ≤ b) : Nat.log2 a ≤ Nat.log2 b := by
  rcases Nat.eq_zero_or_pos a with rfl | ha
  · exact Nat.zero_le _
  · exact (Nat.le_log2 (by omega)).mpr (le_trans (Nat.log2_self_le (by omega)) h)

/-- Rounding is monotone. -/
theorem roundMag_mono (a b c d : Nat) (hb : 0 < b) (hd : 0 < d) (h : a * d ≤ c * b) : roundMag a b ≤ roundMag c d := by
  have hq : a / b ≤ c / d := by
    rw [Nat.le_div_iff_mul_le hd]
    have h1 : a / b * b ≤ a := Nat.div_mul_le_self a b
    have h2 : a / b * b * d ≤ c * b := le_trans (Nat.mul_le_mul_right _ h1) h
    have h3 : a / b * d * b ≤ c * b := by rw [Nat.mul_right_comm]; exact h2
    exact Nat.le_of_mul_le_mul_right h3 hb
  have hk : Nat.log2 (a / b) - 23 ≤ Nat.log2 (c / d) - 23 := Nat.sub_le_sub_right (log2_le_log2 hq) 23
  unfold roundMag
  apply min_le_min_right
  rcases Nat.eq_or_lt_of_le hk with he | hlt
  · rw [← he]
    apply Nat.add_le_add_left
    apply roundNearest_mono _ _ _ _ (by positivity) (by positivity)
    calc a * (d * 2 ^ (Nat.log2 (a / b) - 23)) = a * d * 2 ^ (Nat.log2 (a / b) - 23) := by ring
      _ ≤ c * b * 2 ^ (Nat.log2 (a / b) - 23) := Nat.mul_le_mul_right _ h
      _ = c * (b * 2 ^ (Nat.log2 (a / b) - 23)) := by ring
  · -- a smaller binade: the left side is at most the start of the next one
    have hup : roundNearest a (b * 2 ^ (Nat.log2 (a / b) - 23)) ≤ 2 ^ 24 := by
      apply roundNearest_le _ _ _ (by positivity)
      have hlt2 : a / b < 2 ^ (Nat.log2 (a / b) + 1) := Nat.lt_log2_self
      have h1 : a < 2 ^ (Nat.log2 (a / b) + 1) * b := (Nat.div_lt_iff_lt_mul hb).mp hlt2
      have h2 : 2 ^ (Nat.log2 (a / b) + 1) ≤ 2 ^ 24 * 2 ^ (Nat.log2 (a / b) - 23) := by
        rw [← Nat.pow_add]
        exact Nat.pow_le_pow_right (by decide) (by omega)
      calc a ≤ 2 ^ (Nat.log2 (a / b) + 1) * b := Nat.le_of_lt h1
        _ ≤ 2 ^ 24 * 2 ^ (Nat.log2 (a / b) - 23) * b := Nat.mul_le_mul_right _ h2
        _ = 2 ^ 24 * (b * 2 ^ (Nat.log2 (a / b) - 23)) := by ring
    have hdn : 2 ^ 23 ≤ roundNearest c (d * 2 ^ (Nat.log2 (c / d) - 23)) := by
      apply le_roundNearest _ _ _ (by positivity)
      have hne : c / d ≠ 0 := by
        intro h0
        rw [h0, show Nat.log2 0 = 0 by decide] at hlt
        omega
      have h1 : 2 ^ Nat.log2 (c / d) ≤ c / d := Nat.log2_self_le hne
      have h2 : 2 ^ Nat.log2 (c / d) * d ≤ c := (Nat.le_div_iff_mul_le hd).mp h1
      have h3 : 2 ^ 23 * 2 ^ (Nat.log2 (c / d) - 23) = 2 ^ Nat.log2 (c / d) := by
        rw [← Nat.pow_add]
        congr 1
        omega
      calc 2 ^ 23 * (d * 2 ^ (Nat.log2 (c / d) - 23)) = 2 ^ 23 * 2 ^ (Nat.log2 (c / d) - 23) * d := by ring
        _ = 2 ^ Nat.log2 (c / d) * d := by rw [h3]
        _ ≤ c := h2
    generalize Nat.log2 (a / b) - 23 = k at *
    generalize Nat.log2 (c / d) - 23 = k' at *
    generalize roundNearest a (b * 2 ^ k) = x at *
    generalize roundNearest c (d * 2 ^ k') = y at *
    have : (k + 1) * 2 ^ 23 ≤ k' * 2 ^ 23 := Nat.mul_le_mul_right _ hlt
    omega

theorem roundMag_le_infMag (num den : Nat) : roundMag num den ≤ infMag := Nat.min_le_right _ _

/-- A bound that is itself a pattern bounds the rounded value. -/
theorem roundMag_le_of_le (num den m : Nat) (hd : 0 < den) (hm : m ≤ infMag) (h : num ≤ magUnits m * den) :
    roundMag num den ≤ m := by
  have := roundMag_mono num den (magUnits m) 1 hd (by decide) (by simpa using h)
  rwa [roundMag_magUnits m hm] at this

theorem le_roundMag_of_le (num den m : Nat) (hd : 0 < den) (hm : m ≤ infMag) (h : magUnits m * den ≤ num) :
    m ≤ roundMag num den := by
  have := roundMag_mono (magUnits m) 1 num den (by decide) hd (by simpa using h)
  rwa [roundMag_magUnits m hm] at this

/-! ## Fields of a packed pattern -/

theorem fpack_toNat (neg : Bool) (m : Nat) (h : m < 2 ^ 31) : (fpack neg m).toNat = m + if neg then 2 ^ 31 else 0 := by
  unfold fpack
  cases neg <;> simp only [BitVec.toNat_ofNat] <;> simp <;> omega

theorem fmag_fpack (neg : Bool) (m : Nat) (h : m < 2 ^ 31) : fmag (fpack neg m) = m := by
  unfold fmag
  rw [fpack_toNat neg m h]
  cases neg <;> simp <;> omega

theorem fsign_eq (x : F32) : fsign x = decide (2 ^ 31 ≤ x.toNat) := by
  unfold fsign
  rw [BitVec.getLsbD, Nat.testBit_eq_decide_div_mod_eq]
  have := x.isLt
  congr 1
  apply propext
  constructor <;> intro h <;> omega

theorem fsign_fpack (neg : Bool) (m : Nat) (h : m < 2 ^ 31) : fsign (fpack neg m) = neg := by
  rw [fsign_eq, fpack_toNat neg m h]
  cases neg <;> simp
  omega

end Sys2Proof.Machine
end

