-- ==== Sys2Proof/Laws/Params.lean ====
section
/-! SUPPORT. The bounds of the parameters: P_MAX_FRAMES lies in 1 .. 8192 for every choice (00_scope.md R7). -/

namespace Sys2Proof.Machine

theorem maxFrames_pos (c : Cfg) : 1 ≤ maxFrames c := by unfold maxFrames; omega

theorem maxFrames_le (c : Cfg) : maxFrames c ≤ 8192 := by
  unfold maxFrames
  have := Nat.mod_lt (c.maxFramesRaw - 1) (show 0 < 8192 by decide)
  omega

/-- Every legal value of P_MAX_FRAMES arises: a legal raw value is taken as it is. -/
theorem maxFrames_of_legal (c : Cfg) (h1 : 1 ≤ c.maxFramesRaw) (h2 : c.maxFramesRaw ≤ 8192) :
    maxFrames c = c.maxFramesRaw := by
  unfold maxFrames
  rw [Nat.mod_eq_of_lt (by omega)]
  omega

theorem sampleRate_of_legal (c : Cfg) (h : legalSampleRate c.sampleRateRaw = true) : sampleRate c = c.sampleRateRaw := by
  simp [sampleRate, h]

end Sys2Proof.Machine
end

