-- ==== Sys2Proof/Laws/PerInstr.lean ====
section
/-! SUPPORT. Per-command facts about the encoding: the word of every command matches its row of spec/opcode_table.json. -/

namespace Sys2Proof.Laws

/-- The mask of a command's row of the opcode table (30_encoding.md R143 to R145). -/
def rowMask : Instr → Word
  | .noteOn _ => 0xFFFF0000#32
  | .noteOff => 0xFFFFFFFF#32
  | .process _ => 0xFF000000#32

/-- The match value of a command's row of the opcode table. -/
def rowMatch : Instr → Word
  | .noteOn _ => 0x01000000#32
  | .noteOff => 0x02000000#32
  | .process _ => 0x03000000#32

/-- The word of a command matches its row. -/
def MatchesRow.Statement (i : Instr) : Prop := encode i &&& rowMask i = rowMatch i

theorem MatchesRow.noteOn (note : Int) : MatchesRow.Statement (.noteOn note) := by
  unfold MatchesRow.Statement encode rowMask rowMatch
  generalize BitVec.ofInt 16 note = x
  ext i hi
  simp only [BitVec.getElem_and, BitVec.getElem_append]
  rcases Nat.lt_or_ge i 16 with h | h
  · interval_cases i <;> simp
  · interval_cases i <;> simp

theorem MatchesRow.noteOff : MatchesRow.Statement .noteOff := by unfold MatchesRow.Statement; decide

theorem MatchesRow.process (frames : Nat) : MatchesRow.Statement (.process frames) := by
  unfold MatchesRow.Statement encode rowMask rowMatch
  generalize BitVec.ofNat 24 frames = x
  ext i hi
  simp only [BitVec.getElem_and, BitVec.getElem_append]
  interval_cases i <;> simp

end Sys2Proof.Laws
end

