-- ==== Sys2Proof/Machine/Program.lean ====
section
/-! DEFINITION. The host program statements and their expansions into moves (30_encoding.md R151). -/

namespace Sys2Proof.Machine

/-- A decimal number: `digits / 10 ^ places`, with a sign. -/
structure Decimal where
  neg : Bool
  digits : Nat
  places : Nat
  deriving DecidableEq, Repr

/-- bits32 of a decimal: the nearest binary32 value, ties to even (R151). -/
def bits32 (d : Decimal) : F32 := fpack d.neg (roundMag (d.digits * oneUnits) (10 ^ d.places))

/-- One statement of a host program (R151). -/
inductive HostStmt where
  /-- `WR <REG>, <u32>`. -/
  | wr (r : Reg) (v : Word)
  /-- `RD <REG>`. -/
  | rd (r : Reg)
  /-- `RD OUTBUF[<i>]`. From i = 16384 on the offset of the expansion does not fit 17 bits and the spec gives the statement no
  meaning; the model takes the offset modulo 2^17 (DESIGN CHOICE, unsafe; log 17). -/
  | rdOutbuf (i : Nat)
  /-- `WR @<off>, <u32>`. -/
  | wrRaw (off : Offset) (v : Word)
  /-- `RD @<off>`. -/
  | rdRaw (off : Offset)
  /-- `WRF <REG>, <decimal>`. -/
  | wrf (r : Reg) (d : Decimal)
  /-- `SETOSC <k>, <en>, <wave>`, the two fields as numbers. -/
  | setOsc (k : OscId) (en : BitVec 1) (wave : BitVec 2)
  /-- `NOTE_ON <n>`, `NOTE_OFF`, `PROCESS <n>`. -/
  | command (i : Instr)
  /-- `WAIT_IDLE`. -/
  | waitIdle
  deriving DecidableEq, Repr

/-- A full-width write. -/
def wrMove (off : Offset) (v : Word) : HostMove := .access (.write off .word 0xF#4 v)

/-- A full-width read. -/
def rdMove (off : Offset) : HostMove := .access (.read off .word)

/-- OSCk_CTRL. -/
def oscCtrlReg : OscId → Reg
  | .osc0 => .osc0Ctrl
  | .osc1 => .osc1Ctrl
  | .osc2 => .osc2Ctrl

/-- The move a statement stands for (R151). An OUTBUF index whose offset does not fit 17 bits wraps (DESIGN CHOICE, unsafe; log 17). -/
def HostStmt.move : HostStmt → HostMove
  | .wr r v => wrMove (regOffset r) v
  | .rd r => rdMove (regOffset r)
  | .rdOutbuf i => rdMove (BitVec.ofNat 17 (outbufBase + 4 * i))
  | .wrRaw off v => wrMove off v
  | .rdRaw off => rdMove off
  | .wrf r d => wrMove (regOffset r) (bits32 d)
  | .setOsc k en wave => wrMove (regOffset (oscCtrlReg k)) ((wave.setWidth 32 <<< 1) ||| en.setWidth 32)
  | .command i => wrMove (regOffset .cmd) (encode i)
  | .waitIdle => .waitIdle

/-- A host program as the moves it makes, in order. -/
def programMoves (p : List HostStmt) : List HostMove := p.map HostStmt.move

end Sys2Proof.Machine
end

