-- ==== Sys2Proof/Tests/Slice0.lean ====
section
/-! SUPPORT. Small tests with results from spec/95_test_vectors.md and the rules' own examples, the smoke test of WellFormed, and for
every statement that has hypotheses a witness that meets them. -/

namespace Sys2Proof.Tests

open Sys2Proof.Machine

/-! ## A configuration of the test vectors: 48000.0 Hz, 256 frames, and the sine and cosine of the cutoff 12000 Hz (V-FILT) -/

def cfg : Cfg where
  sampleRateRaw := 0x473B8000#32
  maxFramesRaw := 256
  sinRaw := fun x => if x = 0x3FC90FDB#32 then 0x3F800000#32 else 0#32
  cosRaw := fun x => if x = 0x3FC90FDB#32 then 0xB33BBD2E#32 else 0x3F800000#32
  exp2Raw := fun _ => 0#32
  noiseRaw := fun k => if k = 0 then 0x3E800000#32 else 0xBF000000#32
  busyRead := fun _ => 0#32
  outbufFill := fun _ _ => 0#8

/-- A saw at 6000 Hz into a filter at 12000 Hz, the envelope open (program P2, V-MIX). -/
def sawState : State :=
  { State.reset with
    ctl := { Controls.reset with
      osc0 := { en := true, wave := .saw, offset := 0#32 }
      noteFreq := 0x45BB8000#32, cutoff := 0x463B8000#32, volume := 0x3F800000#32 }
    env := { State.reset.env with state := .attack } }

/-- What a command leaves in a state. -/
def after (o : Host.Outcome State Fault Refusal) : State :=
  match o with
  | .next t => t
  | .fault _ => State.reset
  | .refused _ => State.reset

/-! ## Decoding (V-ENC: the words written out from R143 to R145) -/

theorem test_decode_noteOn : decodeTableWord 32 0b00000001000000001111111111110100 = some (.noteOn (-12)) := by decide
theorem test_decode_noteOff : decodeTableWord 32 0b00000010000000000000000000000000 = some .noteOff := by decide
theorem test_decode_process : decodeTableWord 32 0b00000011000000000000000000000000 = some (.process 0) := by decide
theorem test_decode_process_limit : decodeWith cfg 0b00000011000000000000000100000000#32 = .ok (.process 256) ∧
    decodeWith cfg 0x03000101#32 = .error (.tooManyFrames 257) := by decide
theorem test_decode_refuses : decodeWith cfg 0#32 = .error (.reservedOpcode 0) ∧
    decodeWith cfg 0x01010000#32 = .error .noteOnReservedBits ∧ decodeWith cfg 0x02000001#32 = .error .noteOffReservedBits ∧
    decodeWith cfg 0x03FFFFFF#32 = .error (.tooManyFrames 0xFFFFFF) := by decide

/-! ## WellFormed: an ill-formed command for each check -/

theorem test_wf_refuses_note_too_high : (Instr.noteOn 32768).wf = false := by decide
theorem test_wf_refuses_note_too_low : (Instr.noteOn (-32769)).wf = false := by decide
theorem test_wf_refuses_too_many_frames : (Instr.process 8193).wf = false := by
  have := maxFrames_le Config.machine
  simp only [Instr.wf, Instr.wfWith, decide_eq_false_iff_not]
  omega

/-! ## Commands -/

/-- V-NOTE: NOTE_ON 12 at octave 0 gives 440.0. -/
theorem test_noteOn_octave_up : (after (exec (.noteOn 12) State.reset)).ctl.noteFreq = 0x43DC0000#32 := by decide
/-- V-NOTE: NOTE_ON −24 at octave 2 gives 220.0. -/
theorem test_noteOn_octave_register : (after (exec (.noteOn (-24))
    { State.reset with ctl := { Controls.reset with octave := 2#32 } })).ctl.noteFreq = 0x435C0000#32 := by decide
/-- W5: NOTE_OFF while IDLE leaves the envelope IDLE. -/
theorem test_noteOff_idle : (after (exec .noteOff State.reset)).env = State.reset.env := by decide
/-- R225: NOTE_OFF in ATTACK releases. -/
theorem test_noteOff_attack : (after (exec .noteOff sawState)).env.state = .release := by decide
/-- P2: frame 0 is −0.125 in both lanes, and the phase moves to 0.125. -/
theorem test_process_first_frame :
    let t := processWhole cfg 1 sawState
    outbufWord cfg t 0 = 0xBE000000#32 ∧ outbufWord cfg t 1 = 0xBE000000#32 ∧ t.phases.p0 = 0x3E000000#32 := by
  decide +kernel
/-- P2: frame 2 is 0xBEBFFFFF (the small b1 shows), COEF_VALID is set, the envelope is at SUSTAIN. -/
theorem test_process_third_frame :
    let t := processWhole cfg 3 sawState
    outbufWord cfg t 4 = 0xBEBFFFFF#32 ∧ statusWord t = 8#32 ∧ t.env.state = .sustain := by
  decide +kernel

/-! ## Parts of PROCESS (V-OSC, V-ENV) and the bus (V-BUS) -/

theorem test_oscTri_falling : oscTri 0x3F7FFFFF#32 = 0xBEFFFFFC#32 ∧ oscTri 0x3F000000#32 = 0x3F000000#32 := by decide +kernel
theorem test_oscSaw_below_half : oscSaw 0x3EFFFFFF#32 = 0xB3000000#32 := by decide +kernel
theorem test_oscAdv_backwards : oscAdv 0#32 0xBE000000#32 = 0x3F600000#32 ∧ oscAdv 0#32 0xB0800000#32 = 0#32 := by decide +kernel
theorem test_envRate : envRate cfg 0x38AEC33E#32 = 0x3E800000#32 ∧ envRate cfg 0x3A83126F#32 = 0x3CAAAAAA#32 ∧
    envRate cfg 0x00000001#32 = 0x7F800000#32 := by decide +kernel
theorem test_status_read_after_bad_access :
    (after (step { State.reset with inbox := [.access (.write 0x006#17 .word 0xF#4 1#32)] })).busErr = true := by decide
theorem test_wave_three_is_refused :
    (after (step { State.reset with inbox := [HostStmt.move (.setOsc .osc0 1#1 3#2)] })).ctl.osc0 =
      { en := true, wave := .triangle, offset := 0#32 } := by decide
/-- R151: 0.5 and 12000.0 as binary32. -/
theorem test_bits32 : bits32 { neg := false, digits := 5, places := 1 } = 0x3F000000#32 ∧
    bits32 { neg := false, digits := 12000, places := 0 } = 0x463B8000#32 := by decide +kernel

/-! ## Witnesses: states and operands that meet the hypotheses of the statements -/

/-- A PROCESS of 1 frame in progress, its clear stage next, at the staged pace. -/
def busyState : State := { acceptProcess 1 sawState with pace := .staged }

/-- Reset with one access coming. -/
def withAccess (a : Access) : State := { State.reset with inbox := [.access a] }

theorem witness_DecodeOfEncodeIsTheCommand : (Instr.noteOn 32767).wfWith cfg = true ∧ (Instr.noteOn (-32768)).wfWith cfg = true ∧
    Instr.noteOff.wfWith cfg = true ∧ (Instr.process 256).wfWith cfg = true := by decide

theorem witness_EncodeOfDecodeIsTheWord : decodeWith cfg 0x03000100#32 = .ok (.process 256) := by decide

theorem witness_WrittenOutWordsMeanTheirCommands : maxFrames cfg = 256 := by decide

theorem witness_StepRunsTheDecodedCommand :
    (withAccess (cmdWrite 0x02000000#32)).inbox = [.access (cmdWrite 0x02000000#32)] ∧
    submittedWord Config.machine (cmdWrite 0x02000000#32) = some 0x02000000#32 ∧ decode 0x02000000#32 = .ok .noteOff ∧
    (withAccess (cmdWrite 0x02000000#32)).pace = .whole ∧ (withAccess (cmdWrite 0x02000000#32)).busy = false ∧
    (∀ n, Instr.noteOff ≠ .process n) ∧ decodeTableWord 32 0x02000000 = some .noteOff := by
  refine ⟨rfl, rfl, by decide, rfl, rfl, ?_, by decide⟩
  intro n h
  cases h

theorem witness_StagedProcessIsAcceptedWithItsSnapshot :
    let s := { withAccess (cmdWrite 0x03000001#32) with pace := .staged }
    s.inbox = [.access (cmdWrite 0x03000001#32)] ∧
    submittedWord Config.machine (cmdWrite 0x03000001#32) = some 0x03000001#32 ∧
    decode 0x03000001#32 = .ok (.process 1) ∧ s.pace = .staged ∧ s.busy = false := ⟨rfl, rfl, by decide, rfl, rfl⟩

theorem witness_HeldCommandWaitsUntilTheProcessCompletes :
    let s := { busyState with inbox := [.access (cmdWrite 0x02000000#32)] }
    s.inbox = [.access (cmdWrite 0x02000000#32)] ∧
    submittedWord Config.machine (cmdWrite 0x02000000#32) = some 0x02000000#32 ∧ s.pace = .staged ∧ s.busy = true :=
  ⟨rfl, rfl, rfl, rfl⟩

theorem witness_IllegalWordSetsOnlyIll :
    IllegalWord Config.machine 0x00000000#32 ∧ IllegalWord Config.machine 0xFF000000#32 ∧
    IllegalWord Config.machine 0x01010000#32 ∧ IllegalWord Config.machine 0x02000001#32 ∧
    IllegalWord Config.machine 0x03FFFFFF#32 ∧
    submittedWord Config.machine (cmdWrite 0x00000000#32) = some 0x00000000#32 ∧
    (withAccess (cmdWrite 0x00000000#32)).busy = false := by
  refine ⟨.inl (by decide), .inl (by decide), .inr (.inl (by decide)), .inr (.inr (.inl (by decide))),
    .inr (.inr (.inr ⟨by decide, ?_⟩)), rfl, rfl⟩
  have := maxFrames_le Config.machine
  have h : ((0x03FFFFFF#32).extractLsb' 0 24).toNat = 0xFFFFFF := by decide
  omega

theorem witness_BadAccessSetsOnlyBusErr_reserved : ReservedOffset Config.machine 0x100#17 ∧
    ReservedOffset Config.machine 0x05C#17 ∧ ReservedOffset Config.machine 0x0FFFC#17 ∧ AccessSize.byte ≠ .word ∧
    (0x006#17).toNat % 4 ≠ 0 ∧ (0x7#4 ≠ 0xF#4) := by
  have := maxFrames_le Config.machine
  refine ⟨⟨by intro r; cases r <;> decide, ?_⟩, ⟨by intro r; cases r <;> decide, ?_⟩, ⟨by intro r; cases r <;> decide, ?_⟩,
    by decide, by decide, by decide⟩
  · have h : (0x100#17).toNat = 0x100 := rfl
    omega
  · have h : (0x05C#17).toNat = 0x05C := rfl
    omega
  · have h : (0x0FFFC#17).toNat = 0x0FFFC := rfl
    omega

theorem witness_BadAccessSetsOnlyBusErr_directions : isObservation .envState = true ∧ 1 < 2 * maxFrames Config.machine ∧
    (withAccess (.read 0x100#17 .word)).inbox = [.access (.read 0x100#17 .word)] ∧
    (withAccess (.write 0x000#17 .byte 0xF#4 1#32)).inbox = [.access (.write 0x000#17 .byte 0xF#4 1#32)] ∧
    (withAccess (.write (regOffset .envState) .word 0xF#4 3#32)).inbox =
      [.access (.write (regOffset .envState) .word 0xF#4 3#32)] ∧
    (withAccess (.write (BitVec.ofNat 17 (0x10000 + 4 * 1)) .word 0xF#4 3#32)).inbox =
      [.access (.write (BitVec.ofNat 17 (0x10000 + 4 * 1)) .word 0xF#4 3#32)] ∧
    (withAccess (.read (regOffset .cmd) .word)).inbox = [.access (.read (regOffset .cmd) .word)] := by
  have := maxFrames_pos Config.machine
  exact ⟨rfl, by omega, rfl, rfl, rfl, rfl, rfl⟩

theorem witness_StatusReadsItsFlagsAndClearsOnOne :
    (withAccess (.read (regOffset .status) .word)).inbox = [.access (.read (regOffset .status) .word)] ∧
    (withAccess (.write (regOffset .status) .word 0xF#4 6#32)).inbox =
      [.access (.write (regOffset .status) .word 0xF#4 6#32)] := ⟨rfl, rfl⟩

theorem witness_ControlWriteChangesOnlyItsRegister : isControl .osc0Ctrl = true ∧ isControl .noteOn = true ∧
    (withAccess (.write (regOffset .osc0Ctrl) .word 0xF#4 7#32)).inbox =
      [.access (.write (regOffset .osc0Ctrl) .word 0xF#4 7#32)] ∧
    (withAccess (.read (regOffset .noteOn) .word)).inbox = [.access (.read (regOffset .noteOn) .word)] :=
  ⟨by decide, by decide, rfl, rfl⟩

theorem witness_ControlRegistersReadBackTheirFields :
    (withAccess (.write (regOffset .osc2Ctrl) .word 0xF#4 0xF#32)).inbox =
      [.access (.write (regOffset .osc2Ctrl) .word 0xF#4 0xF#32)] ∧ isControl .osc2Ctrl = true ∧ isControl .noteOn = true ∧
    isControl .volume = true ∧ (0x0000000F#32).extractLsb' 1 2 = 3#2 ∧ (0x00000005#32).extractLsb' 1 2 ≠ 3#2 := by decide

theorem witness_ReadsDuringBusyAreFree : isObservation .hrY2 = true ∧ 0 < 2 * maxFrames Config.machine ∧
    (withAccess (.read (regOffset .hrY2) .word)).inbox = [.access (.read (regOffset .hrY2) .word)] ∧
    (withAccess (.read (regOffset .hrY2) .word)).busy = false ∧
    { busyState with inbox := [.access (.read (regOffset .hrY2) .word)] }.busy = true ∧
    { busyState with inbox := [.access (.read (BitVec.ofNat 17 (0x10000 + 4 * 0)) .word)] }.inbox =
      [.access (.read (BitVec.ofNat 17 (0x10000 + 4 * 0)) .word)] := by
  have := maxFrames_pos Config.machine
  exact ⟨rfl, by omega, rfl, rfl, rfl, rfl⟩

/-- An idle block: the hypothesis of the statements about a command's result. -/
theorem witness_NoteOnSetsFrequencyAndAttack : State.reset.busy = false ∧ sawState.busy = false := by decide
theorem witness_NoteOffClearsTheFlagAndReleases : State.reset.busy = false ∧ sawState.busy = false := by decide

theorem witness_WholeOctavesAreExact :
    let s := { State.reset with ctl := { Controls.reset with octave := 1#32 } }
    s.busy = false ∧ (-2730 : Int) ≤ -1 ∧ s.ctl.octave.toInt + (-1) = 0 ∧ State.reset.ctl.octave = 0#32 := by decide

theorem witness_EnvelopeFollowsItsTransitionTable :
    State.reset.busy = false ∧ State.reset.env.state = .idle ∧ sawState.busy = false ∧ sawState.env.state ≠ .idle ∧
    flt (fadd 0x3F000000#32 0x3E800000#32) 0x3F800000#32 = true ∧
    fle 0x3F800000#32 (fadd 0x3F400000#32 0x3E800000#32) = true ∧
    flt 0x00000000#32 (fsub 0x3F000000#32 0x3E800000#32) = true ∧
    fle (fsub 0x3E800000#32 0x3E800000#32) 0x00000000#32 = true := by decide

theorem witness_EnvelopeValueStaysInRangeAndMonotone :
    EnvelopeOk { state := .attack, value := 0x3F800000#32, attackRate := 0x7F800000#32, releaseRate := 0#32 } ∧
    EnvelopeOk { state := .release, value := 0x3F800000#32, attackRate := 0#32, releaseRate := 0x7F800000#32 } :=
  ⟨⟨by decide, by decide, by decide, by decide⟩, ⟨by decide, by decide, by decide, by decide⟩⟩

theorem witness_RateIsNeverNegativeNorNaN : flt 0x00000000#32 0x00000001#32 = true ∧ flt 0x00000000#32 0x7FC00000#32 = false := by
  decide

theorem witness_PhaseIsTheIteratedAdvance : sawState.busy = false ∧ (sawState.ctl.osc .osc0).en = true ∧
    (sawState.ctl.osc .osc1).en = false := by decide

theorem witness_GeneratedSamplesStayInRange : InUnit 0x3F7FFFFF#32 ∧ InUnit 0x00000000#32 := by decide

theorem witness_NoiseMakesOneDrawPerFrame : (0 < 1) ∧ State.reset.busy = false := by decide

theorem witness_EffectiveCutoffStaysInRange : InUnit 0x3F7FFFFF#32 ∧ fmag 0x80000000#32 = 0 ∧
    isNaN (fadd 0x7FC00000#32 (fmul (fmul (sinCfg cfg (fmul 0x40C90FDB#32 0#32)) 0#32) 0x459C4000#32)) = true := by decide

theorem witness_HysteresisDecidesTheRecomputation :
    State.reset.filt.coefValid = false ∧ flt 0x42C80000#32 (fabs (fsub 0x45BB8000#32 0x447A0000#32)) = true ∧
    flt 0x42C80000#32 (fabs (fsub 0x44898000#32 0x447A0000#32)) = false ∧
    ({ FilterUnit.reset with coefValid := true, lastCutoff := 0x447A0000#32 } : FilterUnit).coefValid = true := by decide

theorem witness_ChannelsAreFilteredSeparately : FilterUnit.reset.coefs = { FilterUnit.reset with lfoPhase := 1#32 }.coefs ∧
    FilterUnit.reset.left = { FilterUnit.reset with lfoPhase := 1#32 }.left := ⟨rfl, rfl⟩

theorem witness_CoefficientA2StaysEqualToA0 : State.reset.filt.coefs.a2 = State.reset.filt.coefs.a0 ∧
    step State.reset = .next State.reset := ⟨rfl, rfl⟩

theorem witness_ProcessRunsItsStagesInOrder : State.reset.busy = false := rfl

theorem witness_MixIsTheSumInIndexOrder : (sawState.ctl.osc .osc0).en = true ∧ (0 < 1) := by decide

theorem witness_MixStaysFiniteAndBounded : (∀ k, InUnit (sawState.phases.get k)) ∧ EnvelopeOk sawState.env :=
  ⟨by intro k; cases k <;> decide, ⟨by decide, by decide, by decide, by decide⟩⟩

theorem witness_ProcessWritesScaledMixToOutbuf : sawState.busy = false ∧ isNaN 0xFFFFFFFF#32 = true ∧
    fmag 0x80000000#32 = 0 ∧ isInf 0xFF800000#32 = true := by decide

theorem witness_ProcessLeavesControlsAndDisabledOscillators : sawState.busy = false ∧ (sawState.ctl.osc .osc2).en = false := by
  decide

theorem witness_ProcessOfZeroFramesOnlySetsTheRates : sawState.busy = false := rfl

/-- The configuration of the tests has no negative sine anywhere. -/
theorem sine_cfg (x : F32) : sinCfg cfg x = 0x00000000#32 ∨ sinCfg cfg x = 0x3F800000#32 := by
  have h0 : inRange fminusOne fone 0#32 = true := by decide
  have h1 : inRange fminusOne fone 0x3F800000#32 = true := by decide
  unfold sinCfg
  split
  · exact .inl rfl
  · split
    · exact .inl rfl
    · by_cases h : x = 0x3FC90FDB#32
      · exact .inr (by simp [cfg, h])
      · exact .inl (by simp [cfg, h])

theorem witness_sineNonNegative : SineNonNegative cfg := by
  intro cut _
  rcases sine_cfg (filtOmega cfg cut) with h | h <;> rw [h] <;> decide

theorem witness_DisabledOscillatorsGiveSilence : SineNonNegative cfg ∧ (∀ k, (State.reset.ctl.osc k).en = false) ∧
    State.reset.filt.left.IsZero ∧ State.reset.filt.right.IsZero ∧ CoefsOk State.reset.filt.coefs ∧
    EnvelopeOk State.reset.env ∧ isFinite State.reset.ctl.volume = true ∧ (0 < 2 * 1) :=
  ⟨witness_sineNonNegative, by intro k; cases k <;> rfl, by decide, by decide,
    ⟨by decide, by decide, by decide, by decide, by decide⟩, ⟨by decide, by decide, by decide, by decide⟩, by decide, by decide⟩

theorem witness_FirstProcessAfterResetIsSilent : SineNonNegative cfg ∧ (0 < 1) := ⟨witness_sineNonNegative, by decide⟩

theorem witness_DualMonoIdentity : sawState.busy = false ∧ sawState.filt.left = sawState.filt.right := by decide

theorem witness_EveryStepKeepsTheChannelsEqual :
    ChannelsEqual State.reset ∧ step State.reset = .next State.reset ∧
    ChannelsEqual busyState ∧ step busyState = .next (runStage Config.machine busyState) :=
  ⟨⟨by decide, by decide⟩, rfl, ⟨by decide, by decide⟩, rfl⟩

theorem witness_StagedRunEqualsTheWholeProcess : sawState.busy = false ∧ 1 ≤ maxFrames Config.machine :=
  ⟨rfl, maxFrames_pos _⟩

/-- Both a busy and an idle state meet the hypotheses of the first clause. -/
theorem witness_ControlWritesMissTheRunningProcess :
    let s := { busyState with inbox := [.access (.write (regOffset .cutoff) .word 0xF#4 1#32)] }
    isControl .cutoff = true ∧ s.busy = true ∧ s.inbox = [.access (.write (regOffset .cutoff) .word 0xF#4 1#32)] ∧
    (withAccess (.write (regOffset .cutoff) .word 0xF#4 1#32)).busy = false ∧
    (withAccess (.write (regOffset .cutoff) .word 0xF#4 1#32)).inbox =
      [.access (.write (regOffset .cutoff) .word 0xF#4 1#32)] :=
  ⟨by decide, rfl, rfl, rfl, rfl⟩

theorem witness_AcceptedProcessCompletes : busyState.inbox = [] ∧ busyState.busy = true := ⟨rfl, rfl⟩

theorem witness_EveryStepKeepsTheRegisterInvariants :
    RegistersOk sawState ∧ step sawState = .next sawState :=
  ⟨⟨by intro k; cases k <;> decide, by decide, ⟨by decide, by decide, by decide, by decide⟩, by decide⟩, rfl⟩

theorem witness_EveryStepKeepsTheOutbufForm :
    OutbufOk Config.machine busyState ∧ step busyState = .next (runStage Config.machine busyState) := by
  refine ⟨⟨rfl, ?_, ?_, ?_⟩, rfl⟩
  · intro cell h
    exact absurd h (by simp [busyState, acceptProcess, sawState, State.reset])
  · intro p h
    have hp : p = { frames := 1, stage := .clearMix } := by
      simpa [busyState, acceptProcess] using h.symm
    rw [hp]
    exact maxFrames_pos _
  · intro p h hs
    have hp : p = { frames := 1, stage := .clearMix } := by
      simpa [busyState, acceptProcess] using h.symm
    rw [hp] at hs
    exact absurd rfl hs

theorem witness_IdleBlockKeepsItsState : State.reset.inbox = [] ∧ State.reset.busy = false := ⟨rfl, rfl⟩

theorem witness_HostAccessesCannotReachEngineState :
    let a : Access := .write (regOffset .envState) .word 0xF#4 3#32
    (withAccess a).inbox = [.access a] ∧ submittedWord Config.machine a = none ∧
    step (withAccess a) = .next { withAccess a with inbox := [] } := ⟨rfl, by decide, rfl⟩

theorem witness_ResetMoveAbandonsEverything : { busyState with inbox := [.reset] }.inbox = [.reset] := rfl

theorem witness_RoundingIsToNearestEven : (0 < 1) ∧ roundMag 3 2 < infMag ∧ (5 < infMag) := by decide

theorem witness_NaNResultsAreCanonical : isNaN (fadd 0x7F800000#32 0xFF800000#32) = true ∧
    isNaN (fsub 0x7F800000#32 0x7F800000#32) = true ∧ isNaN (fmul 0x7F800000#32 0#32) = true ∧
    isNaN (fdiv 0#32 0x80000000#32) = true := by decide

theorem witness_ConversionIsExactUpTo24Bits : |(-16777216 : Int)| ≤ 2 ^ 24 := by decide

theorem witness_ClampStaysWithinItsBounds : fle 0x41A00000#32 0x469C4000#32 = true ∧ isNaN 0x7FC00000#32 = true ∧
    flt 0x00000000#32 0x41A00000#32 = true ∧ flt 0x469C4000#32 0x7F800000#32 = true ∧
    fle 0x41A00000#32 0x447A0000#32 = true ∧ fle 0x447A0000#32 0x469C4000#32 = true ∧
    fle 0x00000000#32 0x3F7D70A4#32 = true := by decide

theorem witness_WrapBringsEveryValueIntoTheUnitInterval : isFinite 0x7F800000#32 = false ∧ isFinite 0xB0800000#32 = true ∧
    fle 0x3F800000#32 (fsub 0xB0800000#32 (ffloor 0xB0800000#32)) = true ∧
    fle 0x3F800000#32 (fsub 0xBE000000#32 (ffloor 0xBE000000#32)) = false ∧ InUnit 0x3F7FFFFF#32 ∧
    fle 0x00000000#32 0x7F7FFFFF#32 = true := by decide

theorem witness_EveryConfigurationHasItsStatedProperties : (-126 : Int) ≤ 127 ∧ isFinite 0x3F800000#32 = true := by decide

theorem witness_LfoPhaseIsTheIteratedAdvance : sawState.busy = false := rfl

theorem witness_EnvelopeStepsOncePerFrame : sawState.busy = false ∧
    { State.reset with mix := [zeroFrame] }.mix[0]? = some zeroFrame := ⟨rfl, rfl⟩

theorem witness_FilterRunsFrameByFrame : { State.reset with mix := [zeroFrame] }.mix[0]? = some zeroFrame ∧
    State.reset.filt.coefValid = false := ⟨rfl, rfl⟩

theorem witness_ScratchHoldsTheWaveformSamples : (0 < 1) ∧ sawState.busy = false ∧ (sawState.ctl.osc .osc0).en = true := by decide

theorem witness_IllegalWordDuringBusySetsIllAfterTheProcess :
    let s := { acceptProcess 1 sawState with inbox := [.access (cmdWrite 0x00000000#32)] }
    s.inbox = [.access (cmdWrite 0x00000000#32)] ∧ submittedWord Config.machine (cmdWrite 0x00000000#32) = some 0x00000000#32 ∧
    s.pace = .whole ∧ s.busy = true ∧ IllegalWord Config.machine 0x00000000#32 :=
  ⟨rfl, rfl, rfl, rfl, .inl (by decide)⟩

end Sys2Proof.Tests
end

section
/-! SUPPORT. Finite magnitudes as significand times power of two, and rounding (00_scope.md R16, R17, R19). -/

namespace Sys2Proof.Machine

/-! ## The nearest whole number -/

/-- Twice the distance from the rounded quotient is at most one denominator, and only an even quotient reaches it. -/
theorem roundNearest_dist (num den : Nat) (h : 0 < den) :
    2 * |(roundNearest num den : Int) * den - num| ≤ den ∧
    (2 * |(roundNearest num den : Int) * den - num| = den → roundNearest num den % 2 = 0) := by
  obtain ⟨hlo, hhi⟩ := roundNearest_bounds num den h
  have htie := roundNearest_tie num den h
  zify at hlo hhi htie
  rcases abs_cases ((roundNearest num den : Int) * den - num) with ⟨he, -⟩ | ⟨he, -⟩ <;> rw [he]
  · exact ⟨by linarith, fun ht => by exact_mod_cast htie (.inl (by linarith))⟩
  · exact ⟨by linarith, fun ht => by exact_mod_cast htie (.inr (by linarith))⟩

/-- No whole number is nearer to the quotient than the rounded one, and where another is as near the rounded one is even. -/
theorem roundNearest_nearest (num den j : Nat) (h : 0 < den) :
    |(roundNearest num den : Int) * den - num| ≤ |(j : Int) * den - num| ∧
    (|(roundNearest num den : Int) * den - num| = |(j : Int) * den - num| → j ≠ roundNearest num den →
      roundNearest num den % 2 = 0) := by
  obtain ⟨hdist, htie⟩ := roundNearest_dist num den h
  generalize roundNearest num den = q at *
  rcases eq_or_ne j q with rfl | hne
  · exact ⟨le_rfl, fun _ hne => absurd rfl hne⟩
  have hgap : (den : Int) ≤ |(q : Int) * den - num| + |(j : Int) * den - num| := by
    have hq : (1 : Int) ≤ |(q : Int) - j| := Int.one_le_abs (by omega)
    calc (den : Int) ≤ |(q : Int) - j| * den := le_mul_of_one_le_left (by omega) hq
      _ = |((q : Int) * den - num) - ((j : Int) * den - num)| := by
        rw [show (q : Int) * den - num - (j * den - num) = (q - j) * den by ring, abs_mul, abs_of_nonneg (Int.natCast_nonneg den)]
      _ ≤ _ := abs_sub _ _
  exact ⟨by omega, fun he _ => htie (by omega)⟩

/-! ## Magnitudes as significand times power of two -/

/-- The pattern of the significand `q` in the binade whose last place is `2 ^ k` units. -/
theorem magUnits_scaled (k q : Nat) (hq : q ≤ 2 ^ 24) (hk : k = 0 ∨ 2 ^ 23 ≤ q) :
    magUnits (k * 2 ^ 23 + q) = q * 2 ^ k := by
  unfold magUnits
  rcases Nat.lt_or_ge q (2 ^ 23) with hsub | hnorm
  · obtain rfl : k = 0 := by omega
    rw [if_pos (by omega)]; ring
  rw [if_neg (by omega)]
  rcases Nat.eq_or_lt_of_le hq with rfl | hlt
  · rw [show (k * 2 ^ 23 + 2 ^ 24) / 2 ^ 23 - 1 = k + 1 by omega, show (k * 2 ^ 23 + 2 ^ 24) % 2 ^ 23 = 0 by omega]
    ring
  · rw [show (k * 2 ^ 23 + q) / 2 ^ 23 - 1 = k by omega, show 2 ^ 23 + (k * 2 ^ 23 + q) % 2 ^ 23 = q by omega]

/-- Every finite magnitude is a significand below 2^24 times a power of two. -/
theorem exists_scaled (m : Nat) (h : m < infMag) :
    ∃ k q, k ≤ 253 ∧ q < 2 ^ 24 ∧ magUnits m = q * 2 ^ k := by
  change m < 255 * 2 ^ 23 at h
  obtain ⟨q, hq⟩ : ∃ q, m = (m / 2 ^ 23 - 1) * 2 ^ 23 + q := Nat.exists_eq_add_of_le (by omega)
  refine ⟨m / 2 ^ 23 - 1, q, by omega, by omega, ?_⟩
  rw [← magUnits_scaled _ q (by omega) (by omega), ← hq]

theorem magUnits_lt_magUnits {a b : Nat} (hb : b ≤ infMag) (h : a < b) : magUnits a < magUnits b := by
  by_contra hle
  have := roundMag_le_of_le (magUnits b) 1 a (by decide) (by omega) (by omega)
  rw [roundMag_magUnits b hb] at this
  omega

theorem magUnits_inj {a b : Nat} (ha : a ≤ infMag) (hb : b ≤ infMag) (h : magUnits a = magUnits b) : a = b := by
  rw [← roundMag_magUnits a ha, h, roundMag_magUnits b hb]

/-- A finite magnitude is a whole number of last places `2 ^ k`, or it is below the binade with that last place. -/
theorem magUnits_on_grid_or_below (m k : Nat) (h : m < infMag) :
    (∃ j, magUnits m = j * 2 ^ k) ∨ (0 < k ∧ magUnits m < 2 ^ 23 * 2 ^ k) := by
  obtain ⟨e, q, -, hq, hm⟩ := exists_scaled m h
  rw [hm]
  rcases Nat.lt_or_ge e k with hlt | hge
  · refine .inr ⟨by omega, ?_⟩
    calc q * 2 ^ e < 2 ^ 24 * 2 ^ e := Nat.mul_lt_mul_of_pos_right hq (by positivity)
      _ = 2 ^ 23 * 2 ^ (e + 1) := by ring
      _ ≤ 2 ^ 23 * 2 ^ k := Nat.mul_le_mul_left _ (Nat.pow_le_pow_right (by decide) hlt)
  · exact .inl ⟨q * 2 ^ (e - k), by rw [Nat.mul_assoc, ← Nat.pow_add, Nat.sub_add_cancel hge]⟩

/-! ## The magnitude that rounding gives -/

/-- Rounding picks a last place `2 ^ k`, rounds to a significand in it, and never leaves the binade it found but for its end. -/
theorem roundMag_eq_min (num den : Nat) (h : 0 < den) :
    ∃ k, roundMag num den = min (k * 2 ^ 23 + roundNearest num (den * 2 ^ k)) infMag ∧
      roundNearest num (den * 2 ^ k) ≤ 2 ^ 24 ∧ (k = 0 ∨ 2 ^ 23 * (den * 2 ^ k) ≤ num) := by
  refine ⟨Nat.log2 (num / den) - 23, rfl, ?_, ?_⟩
  · apply roundNearest_le _ _ _ (by positivity)
    have hlt : num < 2 ^ (Nat.log2 (num / den) + 1) * den := (Nat.div_lt_iff_lt_mul h).mp Nat.lt_log2_self
    calc num ≤ 2 ^ (Nat.log2 (num / den) + 1) * den := hlt.le
      _ ≤ 2 ^ (24 + (Nat.log2 (num / den) - 23)) * den :=
        Nat.mul_le_mul_right _ (Nat.pow_le_pow_right (by decide) (by omega))
      _ = 2 ^ 24 * (den * 2 ^ (Nat.log2 (num / den) - 23)) := by rw [Nat.pow_add]; ring
  · rcases Nat.lt_or_ge (Nat.log2 (num / den)) 24 with hsmall | hbig
    · exact .inl (by omega)
    have hne : num / den ≠ 0 := fun h0 => by simp [h0] at hbig
    refine .inr ?_
    calc 2 ^ 23 * (den * 2 ^ (Nat.log2 (num / den) - 23)) = 2 ^ (23 + (Nat.log2 (num / den) - 23)) * den := by
          rw [Nat.pow_add]; ring
      _ = 2 ^ Nat.log2 (num / den) * den := by rw [show 23 + (Nat.log2 (num / den) - 23) = Nat.log2 (num / den) by omega]
      _ ≤ num := (Nat.le_div_iff_mul_le h).mp (Nat.log2_self_le hne)

/-- A significand rounded within a binade is at least as near as every finite magnitude, and even on a tie. -/
theorem roundNearest_nearest_magUnits (num den k m q : Nat) (h : 0 < den) (hm : m < infMag)
    (hq : roundNearest num (den * 2 ^ k) = q) (hbin : k = 0 ∨ 2 ^ 23 * (den * 2 ^ k) ≤ num) :
    |((q * 2 ^ k : Nat) : Int) * den - num| ≤ |(magUnits m : Int) * den - num| ∧
    (|((q * 2 ^ k : Nat) : Int) * den - num| = |(magUnits m : Int) * den - num| → magUnits m ≠ q * 2 ^ k → q % 2 = 0) := by
  have hregroup (j : Nat) : ((j * 2 ^ k : Nat) : Int) * den = (j : Int) * (den * 2 ^ k : Nat) := by push_cast; ring
  have hnearest := roundNearest_nearest num (den * 2 ^ k) (h := by positivity)
  simp only [hq, ← hregroup] at hnearest
  rcases magUnits_on_grid_or_below m k hm with ⟨j, hj⟩ | ⟨hk, hlt⟩
  · obtain ⟨hnear, htie⟩ := hnearest j
    rw [hj]
    exact ⟨hnear, fun he hne => htie he fun hjq => hne (by rw [hjq])⟩
  · -- the binade's first magnitude lies between the smaller one and the number
    have hstart : 2 ^ 23 * 2 ^ k * den ≤ num := by rw [Nat.mul_assoc, Nat.mul_comm _ den]; omega
    have hbelow : magUnits m * den < 2 ^ 23 * 2 ^ k * den := Nat.mul_lt_mul_of_pos_right hlt h
    have hfar : |((2 ^ 23 * 2 ^ k : Nat) : Int) * den - num| < |(magUnits m : Int) * den - num| := by
      zify at hstart hbelow
      push_cast
      rw [abs_of_nonpos (by linarith), abs_of_nonpos (by linarith)]
      linarith
    have hcloser := (hnearest (2 ^ 23)).1.trans_lt hfar
    exact ⟨hcloser.le, fun he => absurd he hcloser.ne⟩

/-- The magnitudes that rounding gives are finite below half a last place above the largest finite one. -/
theorem roundMag_eq_infMag_iff (num den : Nat) (h : 0 < den) :
    roundMag num den = infMag ↔ (2 ^ 25 - 1) * 2 ^ 253 * den ≤ 2 * num := by
  constructor
  · intro hinf
    by_contra hlt
    obtain ⟨k, hr, hq, hbin⟩ := roundMag_eq_min num den h
    have hk : 253 ≤ k ∧ (k = 253 → 2 ^ 24 ≤ roundNearest num (den * 2 ^ k)) := by
      rw [hr, show infMag = 253 * 2 ^ 23 + 2 ^ 24 by decide] at hinf
      omega
    obtain ⟨hk, hq⟩ := hk
    rcases Nat.eq_or_lt_of_le hk with rfl | hk
    · have hnum := (roundNearest_bounds num (den * 2 ^ 253) (by positivity)).1
      have hD := Nat.mul_le_mul_right (den * 2 ^ 253) (hq rfl)
      omega
    · have hD : den * 2 ^ 254 ≤ den * 2 ^ k := Nat.mul_le_mul_left _ (Nat.pow_le_pow_right (by decide) hk)
      omega
  · intro hle
    refine le_antisymm (roundMag_le_infMag num den) ?_
    have htop : roundMag ((2 ^ 25 - 1) * 2 ^ 252) 1 = infMag := by decide
    rw [← htop]
    exact roundMag_mono _ _ _ _ (by decide) h (by omega)

/-- Settles O50: within its binade a significand is rounded to nearest even, and a binade's grid holds all magnitudes from its
start on. -/
theorem roundingIsToNearestEven : Obligations.RoundingIsToNearestEven := by
  intro num den hden
  refine ⟨fun hfin m hm => ?_, roundMag_eq_infMag_iff num den hden⟩
  obtain ⟨k, hr, hq, hbin⟩ := roundMag_eq_min num den hden
  have hnorm : k = 0 ∨ 2 ^ 23 ≤ roundNearest num (den * 2 ^ k) :=
    hbin.imp_right (le_roundNearest _ _ _ (by positivity))
  obtain ⟨hnear, htie⟩ := roundNearest_nearest_magUnits num den k m _ hden hm rfl hbin
  have hr' : roundMag num den = k * 2 ^ 23 + roundNearest num (den * 2 ^ k) := by omega
  have hmag : magUnits (roundMag num den) = roundNearest num (den * 2 ^ k) * 2 ^ k := by
    rw [hr', magUnits_scaled k _ hq hnorm]
  rw [hmag]
  refine ⟨hnear, fun he hne => ?_⟩
  have heven := htie he fun hsame => hne (magUnits_inj hm.le hfin.le (hsame.trans hmag.symm))
  omega

end Sys2Proof.Machine
end

section
/-! SUPPORT. Patterns by sign and magnitude, comparisons, NaN results, clamp and exact conversion (00_scope.md R16 to R26). -/

namespace Sys2Proof.Machine

/-! ## Patterns by sign and magnitude -/

/-- A pattern with its sign bit clear is its own magnitude. -/
theorem eq_fpack_toNat (x : F32) (h : x.toNat < 2 ^ 31) : x = fpack false x.toNat :=
  BitVec.eq_of_toNat_eq (by simp [fpack_toNat _ _ h])

theorem isNaN_fpack (neg : Bool) (m : Nat) (h : m ≤ infMag) : isNaN (fpack neg m) = false := by
  rw [isNaN, fmag_fpack neg m (h.trans_lt (by decide))]
  exact decide_eq_false (by omega)

theorem isFinite_fpack (neg : Bool) (m : Nat) (h : m < infMag) : isFinite (fpack neg m) = true := by
  rw [isFinite, fmag_fpack neg m (h.trans (by decide))]
  exact decide_eq_true h

theorem units_fpack (neg : Bool) (m : Nat) (h : m < 2 ^ 31) :
    units (fpack neg m) = if neg then -(magUnits m : Int) else magUnits m := by
  rw [units, fsign_fpack neg m h, fmag_fpack neg m h]

theorem natAbs_units (x : F32) : (units x).natAbs = magUnits (fmag x) := by
  unfold units
  split <;> simp

theorem isFinite_iff (x : F32) : isFinite x = true ↔ fmag x < infMag := by simp [isFinite]

theorem isNaN_of_isFinite (x : F32) (h : isFinite x = true) : isNaN x = false := by
  rw [isFinite_iff] at h
  exact decide_eq_false (by omega)

theorem isInf_of_isFinite (x : F32) (h : isFinite x = true) : isInf x = false := by
  rw [isFinite_iff] at h
  exact decide_eq_false (by omega)

theorem isNaN_of_isInf (x : F32) (h : isInf x = true) : isNaN x = false := by
  have : fmag x = infMag := by simpa [isInf] using h
  exact decide_eq_false (by omega)

theorem magUnits_eq_zero_iff (m : Nat) (h : m ≤ infMag) : magUnits m = 0 ↔ m = 0 :=
  ⟨fun h0 => magUnits_inj h (by decide) (h0.trans (by decide)), fun h0 => by rw [h0]; decide⟩

/-- The sign bit of a finite value that is not zero is the sign of its units. -/
theorem fsign_eq_decide_units (x : F32) (hf : isFinite x = true) (h0 : fmag x ≠ 0) : fsign x = decide (units x < 0) := by
  have hpos : 0 < magUnits (fmag x) :=
    Nat.pos_of_ne_zero fun h => h0 ((magUnits_eq_zero_iff _ ((isFinite_iff x).mp hf).le).mp h)
  unfold units
  cases fsign x
  · simp
  · simp; omega

@[simp] theorem fsign_fneg (x : F32) : fsign (fneg x) = !fsign x := by simp [fsign, fneg]

@[simp] theorem fmag_fneg (x : F32) : fmag (fneg x) = fmag x := by
  rw [fmag, fneg, BitVec.toNat_xor, Nat.xor_mod_two_pow]
  simp [fmag]

@[simp] theorem units_fneg (x : F32) : units (fneg x) = -units x := by
  unfold units
  cases h : fsign x <;> simp [h]

@[simp] theorem isFinite_fneg (x : F32) : isFinite (fneg x) = isFinite x := by simp [isFinite]

/-! ## Comparisons (R22) -/

theorem flt_iff (x y : F32) : flt x y = true ↔ isNaN x = false ∧ isNaN y = false ∧ fkey x < fkey y := by
  simp [flt, and_assoc]

theorem fle_iff (x y : F32) : fle x y = true ↔ isNaN x = false ∧ isNaN y = false ∧ fkey x ≤ fkey y := by
  simp [fle, and_assoc]

/-- Values with the sign bit clear are ordered as their patterns. -/
theorem fle_fpack_false (a b : Nat) (ha : a ≤ infMag) (hb : b ≤ infMag) :
    fle (fpack false a) (fpack false b) = decide (a ≤ b) := by
  have hkey (m : Nat) (h : m ≤ infMag) : fkey (fpack false m) = m := by
    have h31 : m < 2 ^ 31 := h.trans_lt (by decide)
    simp [fkey, fsign_fpack _ _ h31, fmag_fpack _ _ h31]
  simp [fle, isNaN_fpack, ha, hb, hkey]

/-! ## NaN results (R21) -/

/-- A pattern that is no NaN but the canonical one. -/
def CanonicalIfNaN (r : F32) : Prop := isNaN r = true → r = qNaN

theorem canonicalIfNaN_qNaN : CanonicalIfNaN qNaN := fun _ => rfl

theorem canonicalIfNaN_of_not_isNaN (r : F32) (h : isNaN r = false) : CanonicalIfNaN r := fun hr => by simp [h] at hr

theorem canonicalIfNaN_fpack (neg : Bool) (m : Nat) (h : m ≤ infMag) : CanonicalIfNaN (fpack neg m) :=
  canonicalIfNaN_of_not_isNaN _ (isNaN_fpack neg m h)

theorem canonicalIfNaN_fadd (x y : F32) : CanonicalIfNaN (fadd x y) := by
  unfold fadd
  split_ifs with hnan hx hopp hy hzero hneg
  · exact canonicalIfNaN_qNaN
  · exact canonicalIfNaN_qNaN
  · exact canonicalIfNaN_of_not_isNaN _ (isNaN_of_isInf x hx)
  · exact canonicalIfNaN_of_not_isNaN _ (isNaN_of_isInf y hy)
  · exact canonicalIfNaN_of_not_isNaN _ (by decide)
  · exact canonicalIfNaN_of_not_isNaN _ (by decide)
  · exact canonicalIfNaN_fpack _ _ (roundMag_le_infMag _ _)

theorem canonicalIfNaN_fmul (x y : F32) : CanonicalIfNaN (fmul x y) := by
  unfold fmul
  dsimp only
  split_ifs with hnan hinf hzero
  · exact canonicalIfNaN_qNaN
  · exact canonicalIfNaN_qNaN
  · exact canonicalIfNaN_fpack _ _ le_rfl
  · exact canonicalIfNaN_fpack _ _ (roundMag_le_infMag _ _)

theorem canonicalIfNaN_fdiv (x y : F32) : CanonicalIfNaN (fdiv x y) := by
  unfold fdiv
  dsimp only
  split_ifs with hnan hx hxy hy hy0 hx0
  · exact canonicalIfNaN_qNaN
  · exact canonicalIfNaN_qNaN
  · exact canonicalIfNaN_fpack _ _ le_rfl
  · exact canonicalIfNaN_fpack _ _ (Nat.zero_le _)
  · exact canonicalIfNaN_qNaN
  · exact canonicalIfNaN_fpack _ _ le_rfl
  · exact canonicalIfNaN_fpack _ _ (roundMag_le_infMag _ _)

/-- Settles O51: every branch of an operation gives the canonical NaN or a pattern that is not NaN. -/
theorem naNResultsAreCanonical : Obligations.NaNResultsAreCanonical := fun x y =>
  ⟨canonicalIfNaN_fadd x y, canonicalIfNaN_fadd x (fneg y), canonicalIfNaN_fmul x y, canonicalIfNaN_fdiv x y⟩

/-! ## clamp (R26) -/

theorem clamp_of_isNaN (x lo hi : F32) (h : isNaN x = true) : clamp x lo hi = lo := by simp [clamp, h]

theorem clamp_of_flt_lo (x lo hi : F32) (h : flt x lo = true) : clamp x lo hi = lo := by simp [clamp, h]

theorem clamp_of_hi_flt (x lo hi : F32) (hb : fle lo hi = true) (h : flt hi x = true) : clamp x lo hi = hi := by
  obtain ⟨-, hx, hgt⟩ := (flt_iff hi x).mp h
  obtain ⟨-, -, hle⟩ := (fle_iff lo hi).mp hb
  have hlo : ¬flt x lo = true := fun hlt => by
    obtain ⟨-, -, hlt⟩ := (flt_iff x lo).mp hlt
    omega
  rw [clamp, if_neg (by simp [hx]), if_neg hlo, if_pos h]

theorem clamp_of_between (x lo hi : F32) (h1 : fle lo x = true) (h2 : fle x hi = true) : clamp x lo hi = x := by
  obtain ⟨-, hx, hlo⟩ := (fle_iff lo x).mp h1
  obtain ⟨-, -, hhi⟩ := (fle_iff x hi).mp h2
  have hnlo : ¬flt x lo = true := fun hlt => by
    obtain ⟨-, -, hlt⟩ := (flt_iff x lo).mp hlt
    omega
  have hnhi : ¬flt hi x = true := fun hlt => by
    obtain ⟨-, -, hlt⟩ := (flt_iff hi x).mp hlt
    omega
  rw [clamp, if_neg (by simp [hx]), if_neg hnlo, if_neg hnhi]

/-- Every pattern is NaN, below the bounds, above them or between them. -/
theorem isNaN_or_flt_or_between (x lo hi : F32) (hb : fle lo hi = true) :
    isNaN x = true ∨ flt x lo = true ∨ flt hi x = true ∨ (fle lo x = true ∧ fle x hi = true) := by
  obtain ⟨hlo, hhi, -⟩ := (fle_iff lo hi).mp hb
  simp only [flt_iff, fle_iff, hlo, hhi, true_and]
  cases isNaN x
  · simp only [true_and]; omega
  · exact .inl rfl

theorem fle_refl_of_not_isNaN (x : F32) (h : isNaN x = false) : fle x x = true := (fle_iff x x).mpr ⟨h, h, le_rfl⟩

theorem clamp_between (x lo hi : F32) (hb : fle lo hi = true) :
    fle lo (clamp x lo hi) = true ∧ fle (clamp x lo hi) hi = true := by
  obtain ⟨hlo, hhi, -⟩ := (fle_iff lo hi).mp hb
  rcases isNaN_or_flt_or_between x lo hi hb with h | h | h | ⟨h1, h2⟩
  · rw [clamp_of_isNaN x lo hi h]; exact ⟨fle_refl_of_not_isNaN lo hlo, hb⟩
  · rw [clamp_of_flt_lo x lo hi h]; exact ⟨fle_refl_of_not_isNaN lo hlo, hb⟩
  · rw [clamp_of_hi_flt x lo hi hb h]; exact ⟨hb, fle_refl_of_not_isNaN hi hhi⟩
  · rw [clamp_of_between x lo hi h1 h2]; exact ⟨h1, h2⟩

/-- Settles O53, by where x lies; −0.0 compares equal to a bound of 0.0. -/
theorem clampStaysWithinItsBounds : Obligations.ClampStaysWithinItsBounds := by
  refine ⟨fun x lo hi hb => ⟨clamp_of_isNaN x lo hi, clamp_of_flt_lo x lo hi, clamp_of_hi_flt x lo hi hb,
    clamp_of_between x lo hi, clamp_between x lo hi hb⟩, fun hi h => ?_⟩
  obtain ⟨-, hhi, hkey⟩ := (fle_iff _ hi).mp h
  exact clamp_of_between _ _ _ (by decide) ((fle_iff _ hi).mpr ⟨by decide, hhi, hkey⟩)

/-! ## Exact results -/

/-- A whole number of units that is the magnitude of a finite value. -/
def Representable (z : Nat) : Prop := ∃ m < infMag, magUnits m = z

theorem representable_scaled (k q : Nat) (hk : k ≤ 252) (hq : q ≤ 2 ^ 24) : Representable (q * 2 ^ k) := by
  induction k generalizing q with
  | zero => exact ⟨0 * 2 ^ 23 + q, by change _ < 255 * 2 ^ 23; omega, magUnits_scaled 0 q hq (.inl rfl)⟩
  | succ k ih =>
    rcases Nat.lt_or_ge q (2 ^ 23) with hlt | hge
    · rw [show q * 2 ^ (k + 1) = 2 * q * 2 ^ k by ring]
      exact ih (2 * q) (by omega) (by omega)
    · exact ⟨(k + 1) * 2 ^ 23 + q, by change _ < 255 * 2 ^ 23; omega, magUnits_scaled (k + 1) q hq (.inr hge)⟩

/-- A representable number of units is not changed by rounding. -/
theorem roundMag_of_representable (z : Nat) (h : Representable z) :
    roundMag z 1 < infMag ∧ magUnits (roundMag z 1) = z := by
  obtain ⟨m, hm, rfl⟩ := h
  rw [roundMag_magUnits m hm.le]
  exact ⟨hm, rfl⟩

theorem roundUnits_of_representable (z : Int) (h : Representable z.natAbs) :
    isFinite (roundUnits z 1) = true ∧ units (roundUnits z 1) = z ∧ fsign (roundUnits z 1) = decide (z < 0) := by
  obtain ⟨hfin, hmag⟩ := roundMag_of_representable z.natAbs h
  have h31 := hfin.trans (show infMag < 2 ^ 31 by decide)
  refine ⟨isFinite_fpack _ _ hfin, ?_, fsign_fpack _ _ h31⟩
  rw [roundUnits, units_fpack _ _ h31, hmag]
  by_cases hneg : z < 0
  · simp [hneg, abs_of_neg]
  · simp [hneg, abs_of_nonneg (not_lt.mp hneg)]

theorem toF32_of_representable (i : Int) (h : Representable (i * 2 ^ 149).natAbs) :
    isFinite (toF32 i) = true ∧ units (toF32 i) = i * 2 ^ 149 ∧ fsign (toF32 i) = decide (i < 0) := by
  rcases eq_or_ne i 0 with rfl | h0
  · decide
  have hto : toF32 i = roundUnits (i * 2 ^ 149) 1 := by rw [toF32, if_neg h0]; norm_cast
  rw [hto]
  obtain ⟨hfin, hunits, hsign⟩ := roundUnits_of_representable _ h
  exact ⟨hfin, hunits, by rw [hsign]; exact decide_eq_decide.mpr (by omega)⟩

theorem representable_of_natAbs_le (i : Int) (h : i.natAbs ≤ 2 ^ 24) : Representable (i * 2 ^ 149).natAbs := by
  rw [Int.natAbs_mul, show (2 ^ 149 : Int).natAbs = 2 ^ 149 by decide]
  exact representable_scaled 149 _ (by decide) h

/-- Settles O52: an integer of at most 24 bits times 1.0 is a whole number of units that needs no rounding. -/
theorem conversionIsExactUpTo24Bits : Obligations.ConversionIsExactUpTo24Bits := by
  intro i hi
  rw [Int.abs_eq_natAbs] at hi
  obtain ⟨hfin, hunits, -⟩ := toF32_of_representable i (representable_of_natAbs_le i (by omega))
  exact ⟨hfin, hunits⟩

end Sys2Proof.Machine
end

section
/-! SUPPORT. floor, the difference with it, and wrap (00_scope.md R23, R27). -/

namespace Sys2Proof.Machine

/-! ## Subtraction of a smaller value of the same sign -/

/-- Taking a value away from one that is not below it and has its sign bit rounds the difference, and an exact zero is +0.0. -/
theorem fsub_of_same_sign (x y : F32) (hx : isFinite x = true) (hy : isFinite y = true) (hs : fsign y = fsign x)
    (hle : units y ≤ units x) : fsub x y = fpack false (roundMag (units x - units y).natAbs 1) := by
  have hy' : isFinite (fneg y) = true := by rw [isFinite_fneg, hy]
  rw [fsub, fadd, if_neg (by simp [isNaN_of_isFinite, hx, hy']), if_neg (by simp [isInf_of_isFinite, hx]),
    if_neg (by simp [isInf_of_isFinite, hy']), units_fneg, ← sub_eq_add_neg]
  rcases eq_or_ne (units x - units y) 0 with h0 | h0
  · rw [if_pos h0, h0, if_neg (by simp [hs])]
    decide
  · rw [if_neg h0, roundUnits, decide_eq_false (by omega)]

/-! ## floor -/

/-- The floor of a finite value needs no rounding: it is the value itself from 2^23 on, and has at most 24 bits below. -/
theorem representable_floor (x : F32) (h : isFinite x = true) : Representable (units x / 2 ^ 149 * 2 ^ 149).natAbs := by
  obtain ⟨k, q, -, hq, hmag⟩ := exists_scaled (fmag x) ((isFinite_iff x).mp h)
  have habs := natAbs_units x
  rcases Nat.lt_or_ge k 149 with hlt | hge
  · have hbound : magUnits (fmag x) ≤ 2 ^ 24 * 2 ^ 149 := by
      rw [hmag]
      exact Nat.mul_le_mul hq.le (Nat.pow_le_pow_right (by decide) hlt.le)
    exact representable_of_natAbs_le _ (by omega)
  · have hdvd : (2 ^ 149 : Int) ∣ units x := by
      rw [← Int.dvd_natAbs, habs, hmag]
      exact_mod_cast Dvd.dvd.mul_left (Nat.pow_dvd_pow 2 hge) q
    rw [Int.ediv_mul_cancel hdvd]
    exact ⟨fmag x, (isFinite_iff x).mp h, habs.symm⟩

/-- The floor of a finite value is finite, has its sign bit, and is its number of whole 1.0s. -/
theorem ffloor_spec (x : F32) (h : isFinite x = true) :
    isFinite (ffloor x) = true ∧ units (ffloor x) = units x / 2 ^ 149 * 2 ^ 149 ∧ fsign (ffloor x) = fsign x := by
  rcases eq_or_ne (fmag x) 0 with h0 | h0
  · have hfl : ffloor x = x := by simp [ffloor, h0]
    have hu : units x = 0 := by
      rw [← Int.natAbs_eq_zero, natAbs_units, h0]; decide
    rw [hfl, hu]
    exact ⟨h, rfl, rfl⟩
  · have hfl : ffloor x = toF32 (units x / 2 ^ 149) := by
      rw [ffloor, if_neg (by simp [h, h0])]; norm_cast
    rw [hfl, fsign_eq_decide_units x h h0]
    obtain ⟨hfin, hunits, hsign⟩ := toF32_of_representable _ (representable_floor x h)
    exact ⟨hfin, hunits, hsign.trans (decide_eq_decide.mpr (by omega))⟩

/-- The units of a finite value above its floor. -/
def fracUnits (x : F32) : Nat := (units x - units (ffloor x)).natAbs

theorem fracUnits_eq (x : F32) (h : isFinite x = true) :
    (fracUnits x : Int) = units x - units (ffloor x) ∧ (fracUnits x : Int) = units x % 2 ^ 149 := by
  obtain ⟨-, hfl, -⟩ := ffloor_spec x h
  unfold fracUnits
  omega

/-- The difference with the floor is the rounded fraction, its sign bit clear. -/
theorem fsub_ffloor (x : F32) (h : isFinite x = true) : fsub x (ffloor x) = fpack false (roundMag (fracUnits x) 1) := by
  obtain ⟨hfin, -, hsign⟩ := ffloor_spec x h
  obtain ⟨hfrac, -⟩ := fracUnits_eq x h
  exact fsub_of_same_sign x (ffloor x) h hfin hsign (by omega)

/-- The fraction of a value that is not negative needs no rounding: its significand is the lower part of the value's own. -/
theorem representable_fracUnits (x : F32) (h : isFinite x = true) (hpos : 0 ≤ units x) : Representable (fracUnits x) := by
  obtain ⟨-, hmod⟩ := fracUnits_eq x h
  obtain ⟨k, q, -, hq, hmag⟩ := exists_scaled (fmag x) ((isFinite_iff x).mp h)
  have hu : units x = (q * 2 ^ k : Nat) := by rw [← hmag, ← natAbs_units]; omega
  have hfrac : fracUnits x = q * 2 ^ k % 2 ^ 149 := by
    rw [hu] at hmod
    exact_mod_cast hmod
  rw [hfrac]
  rcases Nat.lt_or_ge k 149 with hlt | hge
  · rw [show 149 = (149 - k) + k by omega, Nat.pow_add, Nat.mul_mod_mul_right]
    exact representable_scaled k _ (by omega) ((Nat.mod_le _ _).trans hq.le)
  · rw [Nat.mod_eq_zero_of_dvd (Dvd.dvd.mul_left (Nat.pow_dvd_pow 2 hge) q)]
    exact ⟨0, by decide, by decide⟩

/-! ## wrap -/

theorem wrap_of_not_isFinite (x : F32) (h : isFinite x = false) : wrap x = posZero := by simp [wrap, h]

theorem wrap_of_one_le (x : F32) (h : isFinite x = true) (h1 : fle 0x3F800000#32 (fsub x (ffloor x)) = true) :
    wrap x = posZero := by simp [wrap, h, h1]

theorem wrap_of_not_one_le (x : F32) (h : isFinite x = true) (h1 : fle 0x3F800000#32 (fsub x (ffloor x)) = false) :
    wrap x = fsub x (ffloor x) := by simp [wrap, h, h1]

theorem one_fle_fsub_ffloor (x : F32) (h : isFinite x = true) :
    fle 0x3F800000#32 (fsub x (ffloor x)) = decide (0x3F800000 ≤ roundMag (fracUnits x) 1) := by
  rw [fsub_ffloor x h]
  exact fle_fpack_false 0x3F800000 _ (by decide) (roundMag_le_infMag _ _)

theorem inUnit_wrap (x : F32) : InUnit (wrap x) := by
  cases hfin : isFinite x
  · rw [wrap_of_not_isFinite x hfin]; decide
  cases h1 : fle 0x3F800000#32 (fsub x (ffloor x))
  · rw [wrap_of_not_one_le x hfin h1, fsub_ffloor x hfin, InUnit]
    rw [one_fle_fsub_ffloor x hfin, decide_eq_false_iff_not] at h1
    rw [fpack_toNat _ _ (by omega)]
    simpa using h1
  · rw [wrap_of_one_le x hfin h1]; decide

/-- The fraction of a value in [+0.0, 1.0) is the value. -/
theorem wrap_of_inUnit (x : F32) (h : InUnit x) : wrap x = x := by
  change x.toNat < 0x3F800000 at h
  have hx := eq_fpack_toNat x (by omega)
  have hinf : x.toNat < infMag := h.trans (by decide)
  have hfin : isFinite x = true := by rw [hx]; exact isFinite_fpack _ _ hinf
  have hunits : units x = magUnits x.toNat := by rw [hx, units_fpack _ _ (by omega), ← hx]; rfl
  have hlt : magUnits x.toNat < 2 ^ 149 := magUnits_lt_magUnits (b := 0x3F800000) (by decide) h
  obtain ⟨-, hmod⟩ := fracUnits_eq x hfin
  have hround : roundMag (fracUnits x) 1 = x.toNat := by
    rw [show fracUnits x = magUnits x.toNat by omega, roundMag_magUnits _ hinf.le]
  have h1 : fle 0x3F800000#32 (fsub x (ffloor x)) = false := by
    rw [one_fle_fsub_ffloor x hfin, hround]
    exact decide_eq_false (by omega)
  rw [wrap_of_not_one_le x hfin h1, fsub_ffloor x hfin, hround, ← hx]

theorem units_nonneg_of_zero_fle (x : F32) (h : fle posZero x = true) : 0 ≤ units x := by
  obtain ⟨-, -, hkey⟩ := (fle_iff _ x).mp h
  rw [show fkey posZero = 0 by decide] at hkey
  unfold fkey at hkey
  unfold units
  split at hkey
  · rw [show fmag x = 0 by omega, if_pos ‹_›]; decide
  · rw [if_neg ‹_›]; omega

theorem units_fsub_ffloor (x : F32) (h : isFinite x = true) (hpos : 0 ≤ units x) :
    units (fsub x (ffloor x)) = units x - units (ffloor x) := by
  obtain ⟨hfin, hmag⟩ := roundMag_of_representable _ (representable_fracUnits x h hpos)
  rw [fsub_ffloor x h, units_fpack _ _ (hfin.trans (by decide)), hmag, ← (fracUnits_eq x h).1]
  rfl

/-- Settles O54: the difference with the floor is the fraction rounded, and exact for values that are not negative. -/
theorem wrapBringsEveryValueIntoTheUnitInterval : Obligations.WrapBringsEveryValueIntoTheUnitInterval :=
  ⟨inUnit_wrap, wrap_of_not_isFinite, wrap_of_one_le, wrap_of_not_one_le, wrap_of_inUnit, by decide,
    fun x hfin h => units_fsub_ffloor x hfin (units_nonneg_of_zero_fle x h)⟩

end Sys2Proof.Machine
end

section
/-! SUPPORT. What every choice of the parameters, the configuration functions and the draws has (00_scope.md R6, R7, R29 to R31). -/

namespace Sys2Proof.Machine

/-! ## P_SAMPLE_RATE, sin_cfg, cos_cfg, draws: the raw value, or a fixed one in the legal set -/

theorem legalSampleRate_sampleRate (c : Cfg) : legalSampleRate (sampleRate c) = true := by
  unfold sampleRate
  split
  · assumption
  · decide

theorem inRange_sinCfg (c : Cfg) (x : F32) (h : isFinite x = true) : inRange fminusOne fone (sinCfg c x) = true := by
  unfold sinCfg
  split_ifs with h0 hraw
  · decide
  · decide
  · simpa [h] using hraw

theorem inRange_cosCfg (c : Cfg) (x : F32) (h : isFinite x = true) : inRange fminusOne fone (cosCfg c x) = true := by
  unfold cosCfg
  split_ifs with h0 hraw
  · decide
  · decide
  · simpa [h] using hraw

theorem inRange_noiseDraw (c : Cfg) (k : Nat) : inRange fminusHalf fhalf (noiseDraw c k) = true := by
  unfold noiseDraw
  split
  · assumption
  · decide

/-! ## exp2_cfg (R30) -/

/-- The pattern of 2^k is the biased exponent alone. -/
theorem pow2_eq_fpack (k : Int) (h : -126 ≤ k) : pow2 k = fpack false ((k + 127).toNat * 2 ^ 23) := by
  obtain ⟨e, he⟩ : ∃ e : Nat, k + 127 = e := Int.eq_ofNat_of_zero_le (by omega)
  have hcast : (e : Int) * 2 ^ 23 = (e * 2 ^ 23 : Nat) := by push_cast; ring
  rw [pow2, he, fpack, Int.toNat_natCast, hcast, BitVec.ofInt_natCast]
  simp

theorem isFinite_pow2 (k : Int) (h1 : -126 ≤ k) (h2 : k ≤ 127) : isFinite (pow2 k) = true := by
  rw [pow2_eq_fpack k h1]
  exact isFinite_fpack _ _ (by change _ < 255 * 2 ^ 23; omega)

theorem zero_fle_pow2 (k : Int) (h1 : -126 ≤ k) (h2 : k ≤ 127) : fle posZero (pow2 k) = true := by
  rw [pow2_eq_fpack k h1]
  exact (fle_fpack_false 0 _ (by decide) (by change _ ≤ 255 * 2 ^ 23; omega)).trans (decide_eq_true (Nat.zero_le _))

theorem units_pow2 (k : Int) (h1 : -126 ≤ k) (h2 : k ≤ 127) : units (pow2 k) = 2 ^ (k + 149).toNat := by
  obtain ⟨j, hj⟩ : ∃ j : Nat, k + 126 = j := Int.eq_ofNat_of_zero_le (by omega)
  have hpat : (k + 127).toNat * 2 ^ 23 = j * 2 ^ 23 + 2 ^ 23 := by omega
  rw [pow2_eq_fpack k h1, hpat, units_fpack _ _ (by omega), magUnits_scaled j _ (by decide) (.inr le_rfl),
    show (k + 149).toNat = 23 + j by omega, pow_add]
  simp

theorem exactExponent_toF32 (k : Int) (h1 : -126 ≤ k) (h2 : k ≤ 127) : exactExponent (toF32 k) = some k := by
  obtain ⟨-, hunits, -⟩ := toF32_of_representable k (representable_of_natAbs_le k (by omega))
  have hdiv : units (toF32 k) / (oneUnits : Int) = k := by
    rw [hunits]
    exact Int.mul_ediv_cancel k (by decide)
  simp only [exactExponent, hdiv]
  simp [h1, h2]

theorem exactExponent_bounds (x : F32) (k : Int) (h : exactExponent x = some k) : -126 ≤ k ∧ k ≤ 127 := by
  unfold exactExponent at h
  dsimp only at h
  split at h
  · next hk =>
    simp only [Bool.and_eq_true, decide_eq_true_eq] at hk
    obtain ⟨⟨h1, h2⟩, -⟩ := hk
    cases h
    exact ⟨h1, h2⟩
  · cases h

theorem exp2Cfg_of_exactExponent (c : Cfg) (x : F32) (k : Int) (h : exactExponent x = some k) : exp2Cfg c x = pow2 k := by
  simp [exp2Cfg, h]

theorem exp2Cfg_posInf (c : Cfg) : exp2Cfg c 0x7F800000#32 = 0x7F800000#32 := by
  have hnone : exactExponent 0x7F800000#32 = none := by decide
  simp [exp2Cfg, hnone]

theorem zero_fle_exp2Cfg (c : Cfg) (x : F32) (h : isFinite x = true) : fle posZero (exp2Cfg c x) = true := by
  cases hk : exactExponent x with
  | some k =>
    obtain ⟨h1, h2⟩ := exactExponent_bounds x k hk
    rw [exp2Cfg_of_exactExponent c x k hk]
    exact zero_fle_pow2 k h1 h2
  | none =>
    simp only [exp2Cfg, hk]
    split_ifs with hinf hraw
    · decide
    · decide
    · simpa [h] using hraw

/-- Settles O55: each accessor answers the raw value where it is legal and a legal one otherwise, and a whole exponent goes by its
exact conversion. -/
theorem everyConfigurationHasItsStatedProperties : Obligations.EveryConfigurationHasItsStatedProperties := by
  intro c
  have hrate : isFinite (sampleRate c) = true ∧ flt 0x471C4000#32 (sampleRate c) = true := by
    simpa [legalSampleRate] using legalSampleRate_sampleRate c
  have hexp : ∀ k : Int, -126 ≤ k → k ≤ 127 → isFinite (exp2Cfg c (toF32 k)) = true ∧
      units (exp2Cfg c (toF32 k)) = 2 ^ (k + 149).toNat := fun k h1 h2 => by
    rw [exp2Cfg_of_exactExponent c _ k (exactExponent_toF32 k h1 h2)]
    exact ⟨isFinite_pow2 k h1 h2, units_pow2 k h1 h2⟩
  exact ⟨hrate, ⟨maxFrames_pos c, maxFrames_le c⟩, fun x h => ⟨inRange_sinCfg c x h, inRange_cosCfg c x h⟩,
    by simp [sinCfg], by simp [cosCfg], hexp, zero_fle_exp2Cfg c, exp2Cfg_posInf c, inRange_noiseDraw c⟩

end Sys2Proof.Machine
end

section
/-! SUPPORT. One step by the move at the head (60_exceptions.md R372), and the stages of a PROCESS: what they do not read, and that
acceptance and eight stages are the whole PROCESS (43_engine.md R320). -/

namespace Sys2Proof.Machine

/-! ## A step by the move at the head -/

/-- With no move left the engine goes on. -/
theorem step_of_nil (s : State) (h : s.inbox = []) : step s = .next (runStage Config.machine s) := by
  simp [step, fetch, h]

/-- An access that submits no command is done at once. -/
theorem step_of_access (s : State) (a : Access) (rest : List HostMove) (h : s.inbox = .access a :: rest)
    (hw : submittedWord Config.machine a = none) :
    step s = .next (busAccess Config.machine a { s with inbox := rest }) := by
  simp [step, fetch, h, hw]

/-- An access that submits a word to CMD. -/
theorem fetch_of_submitted (s : State) (a : Access) (rest : List HostMove) (w : Word) (h : s.inbox = .access a :: rest)
    (hw : submittedWord Config.machine a = some w) : fetch s = fetchCommand w rest s := by
  simp [fetch, h, hw]

/-- At the staged pace a CMD write is held while BUSY (10_state.md R43). -/
theorem fetchCommand_held (w : Word) (rest : List HostMove) (s : State) (hb : s.busy = true) (hp : s.pace = .staged) :
    fetchCommand w rest s = .moved (runStage Config.machine s) := by
  simp [fetchCommand, hb, hp]

/-- At the whole pace, and in an idle block, the word is taken. -/
theorem fetchCommand_taken (w : Word) (rest : List HostMove) (s : State) (h : s.pace = .whole ∨ s.busy = false) :
    fetchCommand w rest s = takeCommand w { s with inbox := rest } := by
  rcases h with h | h <;> simp [fetchCommand, h]

theorem takeCommand_error (w : Word) (s : State) (e : Illegal) (hd : decode w = .error e) :
    takeCommand w s = .moved (rejectCommand (awaitIdle Config.machine s)) := by
  simp [takeCommand, hd]

/-- A decoded command is executed, but for a PROCESS at the staged pace. -/
theorem takeCommand_ok (w : Word) (s : State) (i : Instr) (hd : decode w = .ok i)
    (h : s.pace = .whole ∨ ∀ n, i ≠ .process n) : takeCommand w s = .command i s := by
  simp only [takeCommand, hd]
  split
  · rename_i n hp
    rcases h with h | h
    · simp [hp] at h
    · exact absurd rfl (h n)
  · rfl

/-- At the staged pace a PROCESS is only accepted. -/
theorem takeCommand_staged (w : Word) (s : State) (n : Nat) (hd : decode w = .ok (.process n)) (hp : s.pace = .staged) :
    takeCommand w s = .moved (acceptProcess n s) := by
  simp [takeCommand, hd, hp]

/-! ## Runs of the machine -/

theorem run_succ_of_step (k : Nat) (s t : State) (h : step s = .next t) :
    Host.Core.run core (k + 1) s = Host.Core.run core k t := by
  have hcore : core.step s = .next t := h
  simp [Host.Core.run, hcore]

/-- With no move left k steps are k stages. -/
theorem run_of_nil (k : Nat) (s : State) (h : s.inbox = []) :
    Host.Core.run core k s = .next (runStages Config.machine k s) := by
  induction k generalizing s with
  | zero => rfl
  | succ k ih =>
    rw [run_succ_of_step k s _ (step_of_nil s h)]
    exact ih _ (by simpa using h)

/-! ## Commands -/

theorem exec_noteOn (note : Int) (s : State) :
    exec (.noteOn note) s = .next (noteOnEffect Config.machine note (awaitIdle Config.machine s)) := rfl

theorem exec_noteOff (s : State) : exec .noteOff s = .next (noteOffEffect (awaitIdle Config.machine s)) := rfl

theorem exec_process (n : Nat) (s : State) :
    exec (.process n) s = .next (processWhole Config.machine n (awaitIdle Config.machine s)) := rfl

/-- A decoded PROCESS has a legal frame count (30_encoding.md R145). -/
theorem frames_le_of_decodeWith (c : Cfg) (w : Word) (n : Nat) (h : decodeWith c w = .ok (.process n)) : n ≤ maxFrames c := by
  unfold decodeWith at h
  split_ifs at h with _ _ _ _ _ hlt
  · cases h
  · cases h
  · cases h
    exact Nat.le_of_not_lt hlt

/-- A PROCESS with a legal frame count is read back from its word. -/
theorem decodeWith_encode_process (c : Cfg) (n : Nat) (h : n ≤ maxFrames c) :
    decodeWith c (encode (.process n)) = .ok (.process n) := by
  have hn : n < 2 ^ 24 := by have := maxFrames_le c; omega
  have hopc : opcField (encode (.process n)) = 0x03#8 := by
    simp only [opcField, encode]
    exact BitVec.extractLsb'_append_eq_left
  have hargs : framesOperand (encode (.process n)) = n := by
    simp only [framesOperand, argField, encode]
    rw [BitVec.extractLsb'_append_eq_right]
    simp
    omega
  rw [decodeWith, hopc, hargs]
  simp [Nat.not_lt.mpr h]

/-! ## A PROCESS stage by stage, and state the stages do not touch -/

/-- An oscillator's stage neither reads nor changes the control file, the moves, the pace and the progress. -/
theorem stageOscillator_update (c : Cfg) (n : Nat) (k : OscId) (s : State) (ctl : Controls) (inbox : List HostMove)
    (pace : Pace) (progress : Option Progress) :
    stageOscillator c n k { s with ctl := ctl, inbox := inbox, pace := pace, progress := progress } =
      { stageOscillator c n k s with ctl := ctl, inbox := inbox, pace := pace, progress := progress } := by
  cases hen : (s.snap.osc k).en
  · rw [stageOscillator_disabled c n k s hen]
    exact stageOscillator_disabled _ _ _ _ hen
  · rw [stageOscillator_enabled c n k s hen]
    exact stageOscillator_enabled _ _ _ _ hen

/-- No stage reads or changes the control file, the moves and the pace. -/
theorem stageWork_update (c : Cfg) (p : Progress) (s : State) (ctl : Controls) (inbox : List HostMove) (pace : Pace) :
    stageWork c p { s with ctl := ctl, inbox := inbox, pace := pace } =
      { stageWork c p s with ctl := ctl, inbox := inbox, pace := pace } := by
  obtain ⟨n, st⟩ := p
  cases st with
  | oscillator k => simpa [stageWork] using stageOscillator_update c n k s ctl inbox pace s.progress
  | _ => rfl

theorem runStage_update (c : Cfg) (s : State) (ctl : Controls) (inbox : List HostMove) (pace : Pace) :
    runStage c { s with ctl := ctl, inbox := inbox, pace := pace } =
      { runStage c s with ctl := ctl, inbox := inbox, pace := pace } := by
  unfold runStage
  dsimp only
  split
  · rfl
  · rw [stageWork_update]

/-- The running PROCESS goes on the same whatever the control file, the moves and the pace are (10_state.md R60). -/
theorem runStages_update (c : Cfg) (k : Nat) (s : State) (ctl : Controls) (inbox : List HostMove) (pace : Pace) :
    runStages c k { s with ctl := ctl, inbox := inbox, pace := pace } =
      { runStages c k s with ctl := ctl, inbox := inbox, pace := pace } := by
  induction k generalizing s with
  | zero => rfl
  | succ k ih => rw [runStages, runStage_update, ih]; rfl

/-- The state with a PROCESS of `n` frames in progress, `st` its next stage. -/
def State.atStage (s : State) (n : Nat) (st : Stage) : State := { s with progress := some { frames := n, stage := st } }

theorem acceptProcess_atStage (n : Nat) (s : State) : (acceptProcess n s).atStage n .clearMix = acceptProcess n s := rfl

/-- A stage but the last does its work, which the progress plays no part in, and leaves the progress at the next stage. -/
theorem runStage_atStage (c : Cfg) (s : State) (n : Nat) (st st' : Stage) (h : nextStage st = some st') :
    runStage c (s.atStage n st) = (stageWork c { frames := n, stage := st } s).atStage n st' := by
  simp only [runStage, State.atStage, h, Option.map_some]
  cases st with
  | oscillator k =>
    simp only [stageWork]
    rw [stageOscillator_update c n k s s.ctl s.inbox s.pace (some { frames := n, stage := .oscillator k })]
    simp
  | _ => rfl

theorem runStage_complete (c : Cfg) (s : State) (n : Nat) : runStage c (s.atStage n .complete) = stageComplete s := rfl

/-- Acceptance and the eight stages are the whole PROCESS (43_engine.md R320). -/
theorem runStages_acceptProcess (c : Cfg) (n : Nat) (s : State) :
    runStages c stageCount (acceptProcess n s) = processWhole c n s := by
  rw [← acceptProcess_atStage]
  simp only [runStages]
  rw [runStage_atStage c _ n .clearMix _ rfl, runStage_atStage c _ n (.oscillator .osc0) _ rfl,
    runStage_atStage c _ n (.oscillator .osc1) _ rfl, runStage_atStage c _ n (.oscillator .osc2) _ rfl,
    runStage_atStage c _ n .envelope _ rfl, runStage_atStage c _ n .filter _ rfl, runStage_atStage c _ n .scale _ rfl,
    runStage_complete]
  rfl

end Sys2Proof.Machine
end

section
/-! SUPPORT. Everything a step can do, in terms of the engine's operations, and invariants of the engine's state: what the stages,
an acceptance, the other commands and reset keep, every step keeps. -/

namespace Sys2Proof.Machine

/-! ## What the host cannot reach -/

/-- Two states with the same engine: what a move of the host that submits no command leaves alone (60_exceptions.md R373). -/
structure SameEngine (s t : State) : Prop where
  phases : t.phases = s.phases
  env : t.env = s.env
  filt : t.filt = s.filt
  progress : t.progress = s.progress
  snap : t.snap = s.snap
  mix : t.mix = s.mix
  scratch : t.scratch = s.scratch
  outbuf : t.outbuf = s.outbuf
  noiseDraws : t.noiseDraws = s.noiseDraws

theorem SameEngine.refl (s : State) : SameEngine s s := ⟨rfl, rfl, rfl, rfl, rfl, rfl, rfl, rfl, rfl⟩

theorem sameEngine_inbox (s : State) (rest : List HostMove) : SameEngine s { s with inbox := rest } :=
  ⟨rfl, rfl, rfl, rfl, rfl, rfl, rfl, rfl, rfl⟩

theorem sameEngine_busRead (c : Cfg) (off : Offset) (size : AccessSize) (s : State) : SameEngine s (busRead c off size s) := by
  constructor <;> simp

theorem sameEngine_busAccess (c : Cfg) (a : Access) (s : State) (rest : List HostMove) :
    SameEngine s (busAccess c a { s with inbox := rest }) := by
  cases a with
  | read off size => constructor <;> simp [busAccess]
  | write off size lanes v =>
    obtain ⟨ctl, ill, busErr, h⟩ := busWrite_frame c off size lanes v { s with inbox := rest }
    rw [busAccess, h]
    exact ⟨rfl, rfl, rfl, rfl, rfl, rfl, rfl, rfl, rfl⟩

theorem sameEngine_rejectCommand (s : State) : SameEngine s (rejectCommand s) := by
  constructor <;> simp [rejectCommand]

/-! ## Everything a step can do -/

/-- The ways a step leaves `s`, each after a change `u` of `s` that the host makes. -/
inductive StepEffect (s : State) : State → Prop where
  /-- The host's own move. -/
  | host {u : State} (h : SameEngine s u) : StepEffect s u
  /-- One stage of the running PROCESS. -/
  | stage {u : State} (h : SameEngine s u) : StepEffect s (runStage Config.machine u)
  /-- The platform's reset. -/
  | reset (u : State) : StepEffect s (applyReset u)
  /-- A PROCESS accepted at the staged pace. -/
  | accept {u : State} (h : SameEngine s u) (n : Nat) (hn : n ≤ maxFrames Config.machine) : StepEffect s (acceptProcess n u)
  /-- An ILLEGAL word. -/
  | reject {u : State} (h : SameEngine s u) : StepEffect s (rejectCommand (awaitIdle Config.machine u))
  /-- A command. -/
  | command {u t : State} (h : SameEngine s u) (i : Instr) (hn : ∀ n, i = .process n → n ≤ maxFrames Config.machine)
      (ht : exec i u = .next t) : StepEffect s t

/-- Waiting for BUSY = 0 with a STATUS read reads, and while BUSY lets one stage pass. -/
theorem stepEffect_pollIdle (s : State) (rest : List HostMove) : StepEffect s (pollIdle rest s) := by
  have hr := sameEngine_busRead Config.machine (regOffset .status) .word s
  unfold pollIdle
  dsimp only
  split
  · exact .stage hr
  · exact .host ⟨hr.phases, hr.env, hr.filt, hr.progress, hr.snap, hr.mix, hr.scratch, hr.outbuf, hr.noiseDraws⟩

theorem eq_of_moved {s t u : State} (hf : fetch s = .moved u) (ht : step s = .next t) : u = t := by
  rw [step, hf] at ht
  cases ht
  rfl

theorem exec_of_command {s t u : State} {i : Instr} (hf : fetch s = .command i u) (ht : step s = .next t) :
    exec i u = .next t := by
  rwa [step, hf] at ht

/-- What a step makes of a word that the engine takes. -/
theorem stepEffect_of_taken (s t u : State) (w : Word) (hu : SameEngine s u) (hf : fetch s = takeCommand w u)
    (ht : step s = .next t) : StepEffect s t := by
  cases hd : decode w with
  | error e =>
    obtain rfl := eq_of_moved (hf.trans (takeCommand_error w u e hd)) ht
    exact .reject hu
  | ok i =>
    have hn : ∀ n, i = .process n → n ≤ maxFrames Config.machine := by
      rintro n rfl
      exact frames_le_of_decodeWith _ w n hd
    have hrun (h : u.pace = .whole ∨ ∀ n, i ≠ .process n) : StepEffect s t :=
      .command hu i hn (exec_of_command (hf.trans (takeCommand_ok w u i hd h)) ht)
    cases hp : u.pace with
    | whole => exact hrun (.inl hp)
    | staged =>
      cases i with
      | noteOn note => exact hrun (.inr (by simp))
      | noteOff => exact hrun (.inr (by simp))
      | process n =>
        obtain rfl := eq_of_moved (hf.trans (takeCommand_staged w u n hd hp)) ht
        exact .accept hu n (hn n rfl)

/-- What a step makes of a word submitted to CMD. -/
theorem stepEffect_of_submitted (s t : State) (a : Access) (rest : List HostMove) (w : Word) (h : s.inbox = .access a :: rest)
    (hw : submittedWord Config.machine a = some w) (ht : step s = .next t) : StepEffect s t := by
  have hf := fetch_of_submitted s a rest w h hw
  have htaken (h : s.pace = .whole ∨ s.busy = false) : StepEffect s t :=
    stepEffect_of_taken s t _ w (sameEngine_inbox s rest) (hf.trans (fetchCommand_taken w rest s h)) ht
  cases hp : s.pace with
  | whole => exact htaken (.inl hp)
  | staged =>
    cases hb : s.busy
    · exact htaken (.inr hb)
    · obtain rfl := eq_of_moved (hf.trans (fetchCommand_held w rest s hb hp)) ht
      exact .stage (.refl s)

/-- The one inversion of `step`. -/
theorem stepEffect_of_step (s t : State) (ht : step s = .next t) : StepEffect s t := by
  rcases fetch_cases s with ⟨-, hf⟩ | ⟨rest, -, hf⟩ | ⟨rest, -, hf⟩ | ⟨rest, -, hf⟩ | ⟨a, rest, -, -, hf⟩ | ⟨a, rest, w, h, hw, -⟩
  · obtain rfl := eq_of_moved hf ht
    exact .stage (.refl s)
  · obtain rfl := eq_of_moved hf ht
    exact .reset _
  · obtain rfl := eq_of_moved hf ht
    exact .stage (sameEngine_inbox s rest)
  · obtain rfl := eq_of_moved hf ht
    exact stepEffect_pollIdle s rest
  · obtain rfl := eq_of_moved hf ht
    exact .host (sameEngine_busAccess _ a s rest)
  · exact stepEffect_of_submitted s t a rest w h hw ht

/-! ## Invariants of the engine's state -/

/-- A predicate of the engine's state that the parts of a step keep. -/
structure KeptByParts (P : State → Prop) : Prop where
  host : ∀ s t, SameEngine s t → P s → P t
  stage : ∀ s, P s → P (runStage Config.machine s)
  accept : ∀ n s, n ≤ maxFrames Config.machine → P s → P (acceptProcess n s)
  noteOn : ∀ n s, P s → P (noteOnEffect Config.machine n s)
  noteOff : ∀ s, P s → P (noteOffEffect s)
  reset : ∀ s, P (applyReset s)

namespace KeptByParts

variable {P : State → Prop} (hP : KeptByParts P)
include hP

theorem runStages (k : Nat) (s : State) (hs : P s) : P (Machine.runStages Config.machine k s) := by
  induction k generalizing s with
  | zero => exact hs
  | succ k ih => exact ih _ (hP.stage s hs)

theorem awaitIdle (s : State) (hs : P s) : P (Machine.awaitIdle Config.machine s) := hP.runStages _ s hs

/-- A whole PROCESS is its acceptance and its stages. -/
theorem processWhole (n : Nat) (s : State) (hn : n ≤ maxFrames Config.machine) (hs : P s) :
    P (Machine.processWhole Config.machine n s) := by
  rw [← runStages_acceptProcess]
  exact hP.runStages _ _ (hP.accept n s hn hs)

theorem exec (i : Instr) (s t : State) (hn : ∀ n, i = .process n → n ≤ maxFrames Config.machine) (hs : P s)
    (ht : Machine.exec i s = .next t) : P t := by
  have hidle := hP.awaitIdle s hs
  cases i with
  | noteOn note => rw [exec_noteOn] at ht; cases ht; exact hP.noteOn _ _ hidle
  | noteOff => rw [exec_noteOff] at ht; cases ht; exact hP.noteOff _ hidle
  | process n => rw [exec_process] at ht; cases ht; exact hP.processWhole n _ (hn n rfl) hidle

/-- Every step keeps what its parts keep. -/
theorem step (s t : State) (hs : P s) (ht : Machine.step s = .next t) : P t := by
  cases stepEffect_of_step s t ht with
  | host h => exact hP.host s _ h hs
  | stage h => exact hP.stage _ (hP.host s _ h hs)
  | reset u => exact hP.reset u
  | accept h n hn => exact hP.accept n _ hn (hP.host s _ h hs)
  | reject h => exact hP.host _ _ (sameEngine_rejectCommand _) (hP.awaitIdle _ (hP.host s _ h hs))
  | command h i hn ht => exact hP.exec i _ t hn (hP.host s _ h hs) ht

end KeptByParts

/-! ## The frames of the filter -/

/-- What every frame of the filter keeps, the filter keeps. -/
theorem filterFrames_keeps (c : Cfg) (snap : Controls) (linc : F32) (Q : FilterUnit → Prop)
    (h : ∀ u f, Q u → Q (filterFrame c snap linc u f).2) (fs : List Frame) :
    ∀ u, Q u → Q (filterFrames c snap linc u fs).2 := by
  induction fs with
  | nil => intro u hu; exact hu
  | cons f fs ih => intro u hu; exact ih _ (h u f hu)

/-- A frame takes the coefficients of its effective cutoff, or keeps those it finds (42_filter.md R278). -/
theorem filterFrame_recomputes_or_keeps (c : Cfg) (snap : Controls) (linc : F32) (u : FilterUnit) (f : Frame) :
    ((filterFrame c snap linc u f).2.coefs = filtCoefs c (lfoCutoff c snap u.lfoPhase) snap.resonance ∧
      (filterFrame c snap linc u f).2.lastCutoff = lfoCutoff c snap u.lfoPhase) ∨
    ((filterFrame c snap linc u f).2.coefs = u.coefs ∧ (filterFrame c snap linc u f).2.lastCutoff = u.lastCutoff) := by
  simp only [filterFrame, lfoAdv, filterSample, filtRecompute]
  split
  · exact .inl ⟨rfl, rfl⟩
  · exact .inr ⟨rfl, rfl⟩

/-! ## FILT_A2 -/

/-- FILT_A2 and FILT_A0 are computed alike (42_filter.md R274). -/
theorem filtCoefs_a2 (c : Cfg) (cut res : F32) : (filtCoefs c cut res).a2 = (filtCoefs c cut res).a0 := rfl

theorem filterFrame_a2 (c : Cfg) (snap : Controls) (linc : F32) (u : FilterUnit) (f : Frame) (h : u.coefs.a2 = u.coefs.a0) :
    (filterFrame c snap linc u f).2.coefs.a2 = (filterFrame c snap linc u f).2.coefs.a0 := by
  rcases filterFrame_recomputes_or_keeps c snap linc u f with ⟨hc, -⟩ | ⟨hc, -⟩ <;> rw [hc]
  · exact filtCoefs_a2 _ _ _
  · exact h

/-- The filter after one stage of the running PROCESS. -/
theorem runStage_filt (c : Cfg) (s : State) : (runStage c s).filt = s.filt ∨ (runStage c s).filt = (stageFilter c s).filt := by
  unfold runStage
  split
  · exact .inl rfl
  · rename_i p _
    obtain ⟨n, st⟩ := p
    cases st with
    | filter => exact .inr rfl
    | oscillator k => exact .inl (stageOscillator_filt c n k s)
    | _ => exact .inl rfl

theorem runStage_a2 (c : Cfg) (s : State) (h : s.filt.coefs.a2 = s.filt.coefs.a0) :
    (runStage c s).filt.coefs.a2 = (runStage c s).filt.coefs.a0 := by
  rcases runStage_filt c s with hf | hf <;> rw [hf]
  · exact h
  · exact filterFrames_keeps c s.snap _ (fun u => u.coefs.a2 = u.coefs.a0) (filterFrame_a2 c s.snap _) s.mix s.filt h

/-- Settles O28: only the filter stage touches the coefficients, and it computes FILT_A2 as it computes FILT_A0. -/
theorem coefficientA2StaysEqualToA0 : Obligations.CoefficientA2StaysEqualToA0 := by
  have hkept : KeptByParts (fun s => s.filt.coefs.a2 = s.filt.coefs.a0) :=
    { host := fun s t h hs => by rw [h.filt]; exact hs
      stage := runStage_a2 _
      accept := fun _ _ _ hs => hs
      noteOn := fun _ _ hs => hs
      noteOff := fun _ hs => hs
      reset := fun _ => rfl }
  exact ⟨rfl, hkept.step⟩

end Sys2Proof.Machine
end

section
/-! SUPPORT. The register invariants of 10_state.md R78: ranges of binary32 results, then one lemma for each unit of a PROCESS. -/

namespace Sys2Proof.Machine

/-! ## Values in [+0.0, +inf] -/

/-- A value in [+0.0, +inf] is no NaN and has its sign bit clear. -/
theorem nonNegative_iff (x : F32) : NonNegative x ↔ fsign x = false ∧ isNaN x = false := by
  rw [fsign_eq, isNaN, fmag, decide_eq_false_iff_not, decide_eq_false_iff_not]
  have hinf : infMag = 0x7F800000 := rfl
  have hlt := x.isLt
  constructor <;> intro h <;> omega

theorem nonNegative_fpack (m : Nat) (h : m ≤ infMag) : NonNegative (fpack false m) :=
  (nonNegative_iff _).mpr ⟨fsign_fpack _ _ (h.trans_lt (by decide)), isNaN_fpack _ _ h⟩

theorem toNat_eq_fmag (x : F32) (h : fsign x = false) : x.toNat = fmag x := by
  rw [fsign_eq, decide_eq_false_iff_not] at h
  rw [fmag]
  omega

/-- A value above one that is not negative is positive. -/
theorem positive_of_flt (lo x : F32) (hlo : 0 ≤ fkey lo) (h : flt lo x = true) : NonNegative x ∧ fmag x ≠ 0 := by
  obtain ⟨-, hnan, hlt⟩ := (flt_iff lo x).mp h
  have hpos : 0 < fkey x := by omega
  rw [nonNegative_iff, hnan]
  unfold fkey at hpos
  cases hs : fsign x <;> simp only [hs, if_true, Bool.false_eq_true, if_false] at hpos
  · exact ⟨⟨rfl, rfl⟩, by omega⟩
  · omega

/-- A sum of two values in [+0.0, +inf] is one. -/
theorem nonNegative_fadd (x y : F32) (hx : NonNegative x) (hy : NonNegative y) : NonNegative (fadd x y) := by
  obtain ⟨hsx, hnx⟩ := (nonNegative_iff x).mp hx
  obtain ⟨hsy, hny⟩ := (nonNegative_iff y).mp hy
  have hunits : 0 ≤ units x + units y := by
    simp only [units, hsx, hsy, Bool.false_eq_true, if_false]
    omega
  simp only [fadd, hnx, hny, hsx, hsy, Bool.or_self, Bool.and_false, bne_self_eq_false, Bool.false_eq_true, if_false]
  split_ifs
  · exact hx
  · exact hy
  · decide
  · rw [roundUnits, decide_eq_false (by omega)]
    exact nonNegative_fpack _ (roundMag_le_infMag _ _)

/-- A product of two values in (+0.0, +inf] is not negative. -/
theorem nonNegative_fmul (x y : F32) (hx : NonNegative x) (hy : NonNegative y) (hx0 : fmag x ≠ 0) (hy0 : fmag y ≠ 0) :
    NonNegative (fmul x y) := by
  obtain ⟨hsx, hnx⟩ := (nonNegative_iff x).mp hx
  obtain ⟨hsy, hny⟩ := (nonNegative_iff y).mp hy
  simp only [fmul, hnx, hny, hsx, hsy, hx0, hy0, Bool.or_self, bne_self_eq_false, Bool.false_eq_true, decide_false, if_false]
  split_ifs
  · exact nonNegative_fpack _ le_rfl
  · exact nonNegative_fpack _ (roundMag_le_infMag _ _)

/-- The reciprocal of a value in [+0.0, +inf] is one. -/
theorem nonNegative_fdiv_fone (y : F32) (hy : NonNegative y) : NonNegative (fdiv fone y) := by
  obtain ⟨hsy, hny⟩ := (nonNegative_iff y).mp hy
  have h1 : fsign fone = false ∧ isNaN fone = false ∧ isInf fone = false ∧ fmag fone ≠ 0 := by decide
  obtain ⟨hs1, hn1, hi1, hm1⟩ := h1
  simp only [fdiv, hny, hsy, hs1, hn1, hi1, hm1, Bool.or_self, bne_self_eq_false, Bool.false_eq_true, if_false]
  split_ifs
  · exact nonNegative_fpack _ (Nat.zero_le _)
  · exact nonNegative_fpack _ le_rfl
  · exact nonNegative_fpack _ (roundMag_le_infMag _ _)

/-- Taking a larger finite value away rounds a difference below zero. -/
theorem fsub_of_units_lt (x y : F32) (hx : isFinite x = true) (hy : isFinite y = true) (hlt : units x < units y) :
    fsub x y = fpack true (roundMag (units x - units y).natAbs 1) := by
  have hy' : isFinite (fneg y) = true := by rw [isFinite_fneg, hy]
  rw [fsub, fadd, if_neg (by simp [isNaN_of_isFinite, hx, hy']), if_neg (by simp [isInf_of_isFinite, hx]),
    if_neg (by simp [isInf_of_isFinite, hy']), units_fneg, ← sub_eq_add_neg, if_neg (by omega), roundUnits,
    decide_eq_true (by omega)]

/-- Taking +inf from a finite value leaves −inf. -/
theorem fsub_posInf (x : F32) (hx : isFinite x = true) : fsub x 0x7F800000#32 = 0xFF800000#32 := by
  have hneg : fneg 0x7F800000#32 = 0xFF800000#32 := by decide
  have hinf : isNaN 0xFF800000#32 = false ∧ isInf 0xFF800000#32 = true := by decide
  rw [fsub, fadd, hneg, if_neg (by simp [isNaN_of_isFinite, hx, hinf]), if_neg (by simp [isInf_of_isFinite, hx]),
    if_pos hinf.2]

theorem fpack_true_fle_posZero (m : Nat) (h : m ≤ infMag) : fle (fpack true m) posZero = true := by
  rw [fle_iff, isNaN_fpack _ _ h, fkey, fsign_fpack _ _ (h.trans_lt (by decide)), if_pos rfl,
    show fkey posZero = 0 by decide]
  exact ⟨rfl, by decide, by omega⟩

/-- What is left when a value in [+0.0, +inf] is taken from a finite one, if it is above zero, is at most what there was. -/
theorem fsub_le_of_positive (x y : F32) (hx : x.toNat < infMag) (hy : NonNegative y)
    (hpos : fle (fsub x y) posZero = false) : (fsub x y).toNat ≤ x.toNat := by
  obtain ⟨hsx, -⟩ := (nonNegative_iff x).mp hx.le
  obtain ⟨hsy, -⟩ := (nonNegative_iff y).mp hy
  have hfx : isFinite x = true := by rwa [isFinite_iff, ← toNat_eq_fmag x hsx]
  rcases Nat.eq_or_lt_of_le hy with hinf | hlt
  · rw [show y = 0x7F800000#32 from BitVec.eq_of_toNat_eq hinf, fsub_posInf x hfx] at hpos
    exact absurd hpos (by decide)
  have hfy : isFinite y = true := by rwa [isFinite_iff, ← toNat_eq_fmag y hsy]
  rcases le_or_gt (units y) (units x) with hle | hlt
  · have hux : units x = magUnits (fmag x) := by simp [units, hsx]
    have huy : units y = magUnits (fmag y) := by simp [units, hsy]
    have hround : roundMag (units x - units y).natAbs 1 ≤ fmag x :=
      roundMag_le_of_le _ _ _ (by decide) ((isFinite_iff x).mp hfx).le (by omega)
    rw [fsub_of_same_sign x y hfx hfy (by rw [hsx, hsy]) hle,
      fpack_toNat _ _ ((roundMag_le_infMag _ _).trans_lt (by decide)), toNat_eq_fmag x hsx]
    simpa using hround
  · rw [fsub_of_units_lt x y hfx hfy hlt, fpack_true_fle_posZero _ (roundMag_le_infMag _ _)] at hpos
    cases hpos

/-! ## The envelope -/

theorem positive_sampleRate (c : Cfg) : NonNegative (sampleRate c) ∧ fmag (sampleRate c) ≠ 0 := by
  have h := legalSampleRate_sampleRate c
  rw [legalSampleRate, Bool.and_eq_true] at h
  exact positive_of_flt 0x471C4000#32 _ (by decide) h.2

/-- A rate is in [+0.0, +inf] (41_envelope.md R222). -/
theorem nonNegative_envRate (c : Cfg) (t : F32) : NonNegative (envRate c t) := by
  unfold envRate
  split
  · rename_i hpos
    obtain ⟨ht, ht0⟩ := positive_of_flt posZero t (by decide) hpos
    obtain ⟨hr, hr0⟩ := positive_sampleRate c
    exact nonNegative_fdiv_fone _ (nonNegative_fmul t _ ht hr ht0 hr0)
  · decide

theorem envelopeOk_envSetRates (c : Cfg) (snap : Controls) (e : Envelope) (h : EnvelopeOk e) :
    EnvelopeOk (envSetRates c snap e) :=
  ⟨h.value, h.idle, nonNegative_envRate c _, nonNegative_envRate c _⟩

/-- A new value in range and a new state keep the rates' part, and IDLE asks for +0.0. -/
theorem EnvelopeOk.move {e : Envelope} (h : EnvelopeOk e) (st : EnvState) (v : F32) (hv : InUnitClosed v)
    (hst : st = .idle → v = posZero) : EnvelopeOk { e with state := st, value := v } :=
  ⟨hv, hst, h.attackRate, h.releaseRate⟩

theorem envelopeOk_envNoteOn (e : Envelope) (h : EnvelopeOk e) : EnvelopeOk (envNoteOn e) :=
  h.move .attack e.value h.value (by simp)

theorem envelopeOk_envNoteOff (e : Envelope) (h : EnvelopeOk e) : EnvelopeOk (envNoteOff e) := by
  refine h.move (if e.state = .idle then .idle else .release) e.value h.value fun hi => h.idle ?_
  by_contra hne
  simp [hne] at hi

/-- A sum below 1.0 is in [+0.0, 1.0). -/
theorem inUnitClosed_of_not_fone_fle (v : F32) (h : NonNegative v) (hlt : fle fone v = false) : InUnitClosed v := by
  rw [eq_fpack_toNat v (h.trans_lt (by decide)), show fone = fpack false 0x3F800000 by decide,
    fle_fpack_false _ _ (by decide) h, decide_eq_false_iff_not] at hlt
  exact (Nat.lt_of_not_le hlt).le

theorem envelopeOk_envStepAttack (e : Envelope) (h : EnvelopeOk e) (hs : e.state = .attack) :
    EnvelopeOk (envStepAttack e) := by
  have hsum : NonNegative (fadd e.value e.attackRate) :=
    nonNegative_fadd _ _ (h.value.trans (by decide)) h.attackRate
  unfold envStepAttack
  dsimp only
  split
  · exact h.move .sustain fone (by decide) (by simp)
  · rename_i hlt
    exact h.move e.state _ (inUnitClosed_of_not_fone_fle _ hsum (by simpa using hlt)) (by simp [hs])

theorem envelopeOk_envStepRelease (e : Envelope) (h : EnvelopeOk e) (hs : e.state = .release) :
    EnvelopeOk (envStepRelease e) := by
  unfold envStepRelease
  dsimp only
  split
  · exact h.move .idle posZero (by decide) (fun _ => rfl)
  · rename_i hpos
    have hle := fsub_le_of_positive e.value e.releaseRate (h.value.trans_lt (by decide)) h.releaseRate (by simpa using hpos)
    exact h.move e.state _ (hle.trans h.value) (by simp [hs])

/-- A frame step keeps the envelope's part of R78 (41_envelope.md R232). -/
theorem envelopeOk_envStep (e : Envelope) (h : EnvelopeOk e) : EnvelopeOk (envStep e) := by
  unfold envStep
  cases hs : e.state with
  | idle => exact h.move .idle posZero (by decide) (fun _ => rfl)
  | attack => exact envelopeOk_envStepAttack e h hs
  | sustain => exact h.move .sustain sustainLevel (by decide) (by simp)
  | release => exact envelopeOk_envStepRelease e h hs

theorem envelopeOk_envApply (fs : List Frame) (e : Envelope) (h : EnvelopeOk e) : EnvelopeOk (envApply e fs).2 := by
  rw [envApply_env]
  exact Function.Iterate.rec EnvelopeOk h envelopeOk_envStep fs.length

/-! ## Phases and the filter -/

/-- The phase a generation leaves is in [+0.0, 1.0) (40_oscillator.md R186). -/
theorem inUnit_oscGen_phase (c : Cfg) (n : Nat) (wave : Wave) (f p : F32) (d : Nat) (h : InUnit p) :
    InUnit (oscGen c n wave f p d).phase := by
  rw [oscGen, oscFrames_phase]
  exact Function.Iterate.rec (fun q => InUnit q) h (fun q _ => inUnit_wrap (fadd q (oscInc c f))) n

theorem inCutoffRange_of_between (x : F32) (h1 : fle cutoffMin x = true) (h2 : fle x cutoffMax = true) : InCutoffRange x := by
  obtain ⟨-, -, hlo⟩ := (fle_iff _ _).mp h1
  obtain ⟨-, -, hhi⟩ := (fle_iff _ _).mp h2
  rw [show fkey cutoffMin = 0x41A00000 by decide] at hlo
  rw [show fkey cutoffMax = 0x469C4000 by decide] at hhi
  unfold fkey at hlo hhi
  cases hs : fsign x <;> simp only [hs, if_true, Bool.false_eq_true, if_false] at hlo hhi
  · have := toNat_eq_fmag x hs
    omega
  · omega

/-- The effective cutoff is in [20.0, 20000.0] (42_filter.md R276). -/
theorem inCutoffRange_lfoCutoff (c : Cfg) (snap : Controls) (p : F32) : InCutoffRange (lfoCutoff c snap p) := by
  obtain ⟨hlo, hhi⟩ := clamp_between (fadd snap.cutoff (fmul (fmul (sinCfg c (fmul twoPi p)) snap.autoAmount) lfoDepth))
    cutoffMin cutoffMax (by decide)
  exact inCutoffRange_of_between _ hlo hhi

/-- The filter's part of R78. -/
structure FilterRegsOk (u : FilterUnit) : Prop where
  lfoPhase : InUnit u.lfoPhase
  lastCutoff : u.lastCutoff = posZero ∨ InCutoffRange u.lastCutoff

theorem filterRegsOk_filterFrame (c : Cfg) (snap : Controls) (linc : F32) (u : FilterUnit) (f : Frame) (h : FilterRegsOk u) :
    FilterRegsOk (filterFrame c snap linc u f).2 := by
  constructor
  · rw [filterFrame_lfoPhase]
    exact inUnit_wrap _
  · rcases filterFrame_recomputes_or_keeps c snap linc u f with ⟨-, hc⟩ | ⟨-, hc⟩ <;> rw [hc]
    · exact .inr (inCutoffRange_lfoCutoff _ _ _)
    · exact h.lastCutoff

/-! ## The registers -/

theorem RegistersOk.filter {s : State} (h : RegistersOk s) : FilterRegsOk s.filt := ⟨h.lfoPhase, h.lastCutoff⟩

/-- The invariants are about the phases, the envelope and the filter. -/
theorem registersOk_of_parts {s : State} (hphases : ∀ k, InUnit (s.phases.get k)) (henv : EnvelopeOk s.env)
    (hfilt : FilterRegsOk s.filt) : RegistersOk s := ⟨hphases, hfilt.lfoPhase, henv, hfilt.lastCutoff⟩

theorem inUnit_stageOscillator (c : Cfg) (n : Nat) (k : OscId) (s : State) (h : ∀ j, InUnit (s.phases.get j)) (j : OscId) :
    InUnit ((stageOscillator c n k s).phases.get j) := by
  cases hen : (s.snap.osc k).en
  · rw [stageOscillator_disabled c n k s hen]
    exact h j
  · rw [stageOscillator_enabled c n k s hen]
    dsimp only
    by_cases hj : j = k
    · rw [hj, Phases.get_set_same]
      exact inUnit_oscGen_phase _ _ _ _ _ _ (h k)
    · rw [Phases.get_set_other _ _ _ _ hj]
      exact h j

theorem registersOk_stageWork (c : Cfg) (p : Progress) (s : State) (h : RegistersOk s) : RegistersOk (stageWork c p s) := by
  obtain ⟨n, st⟩ := p
  cases st with
  | oscillator k =>
    refine registersOk_of_parts (inUnit_stageOscillator c n k s h.phases) ?_ ?_
    · rw [stageWork, stageOscillator_env]
      exact h.env
    · rw [stageWork, stageOscillator_filt]
      exact h.filter
  | envelope =>
    exact registersOk_of_parts h.phases (envelopeOk_envApply _ _ (envelopeOk_envSetRates c s.snap _ h.env)) h.filter
  | filter =>
    exact registersOk_of_parts h.phases h.env
      (filterFrames_keeps c s.snap _ FilterRegsOk (filterRegsOk_filterFrame c s.snap _) s.mix _ h.filter)
  | clearMix => exact registersOk_of_parts h.phases h.env h.filter
  | scale => exact registersOk_of_parts h.phases h.env h.filter
  | complete => exact registersOk_of_parts h.phases h.env h.filter

theorem registersOk_runStage (c : Cfg) (s : State) (h : RegistersOk s) : RegistersOk (runStage c s) := by
  unfold runStage
  split
  · exact h
  · rename_i p _
    have hw := registersOk_stageWork c p s h
    exact registersOk_of_parts hw.phases hw.env hw.filter

theorem registersOk_of_reset (s : State) (hphases : s.phases = State.reset.phases) (henv : s.env = State.reset.env)
    (hfilt : s.filt = State.reset.filt) : RegistersOk s := by
  refine registersOk_of_parts ?_ ?_ ?_
  · rw [hphases]
    intro k
    cases k <;> decide
  · rw [henv]
    exact ⟨by decide, fun _ => rfl, by decide, by decide⟩
  · rw [hfilt]
    exact ⟨by decide, .inl rfl⟩

theorem keptByParts_registersOk : KeptByParts RegistersOk where
  host s t h hs := registersOk_of_parts (by rw [h.phases]; exact hs.phases) (by rw [h.env]; exact hs.env)
    (by rw [h.filt]; exact hs.filter)
  stage := registersOk_runStage _
  accept _ _ _ hs := registersOk_of_parts hs.phases hs.env hs.filter
  noteOn _ s hs := registersOk_of_parts hs.phases (envelopeOk_envNoteOn s.env hs.env) hs.filter
  noteOff s hs := registersOk_of_parts hs.phases (envelopeOk_envNoteOff s.env hs.env) hs.filter
  reset s := registersOk_of_reset _ rfl rfl rfl

/-- Settles O42: every register of R78 is +0.0 after reset. -/
theorem resetMeetsTheRegisterInvariants : Obligations.ResetMeetsTheRegisterInvariants := registersOk_of_reset _ rfl rfl rfl

/-- Settles O43: the oscillator, envelope and filter stages keep their own registers in range, and nothing else writes them but
NOTE_ON, NOTE_OFF and reset. -/
theorem everyStepKeepsTheRegisterInvariants : Obligations.EveryStepKeepsTheRegisterInvariants :=
  ⟨resetMeetsTheRegisterInvariants, keptByParts_registersOk.step⟩

end Sys2Proof.Machine
end

section
/-! SUPPORT. The form of OUTBUF and the progress of a PROCESS as an invariant (10_state.md R75, R77, 20_memory.md R102). -/

namespace Sys2Proof.Machine

/-! ## MIX keeps its frames -/

theorem stageOscillator_mix_length (c : Cfg) (k : OscId) (s : State) (n : Nat) (h : s.mix.length = n) :
    (stageOscillator c n k s).mix.length = n := by
  cases hen : (s.snap.osc k).en
  · rw [stageOscillator_disabled c n k s hen, h]
  · rw [stageOscillator_enabled c n k s hen]
    simp [oscillatorRun, oscGen, h]

@[simp] theorem stageEnvelope_mix_length (c : Cfg) (s : State) : (stageEnvelope c s).mix.length = s.mix.length :=
  envApply_length _ _

@[simp] theorem stageFilter_mix_length (c : Cfg) (s : State) : (stageFilter c s).mix.length = s.mix.length :=
  filterFrames_length _ _ _ _ _

/-- After a stage MIX has the frames of the PROCESS, when it had them before or the stage is the clear. -/
theorem stageWork_mix_length (c : Cfg) (p : Progress) (s : State) (h : p.stage ≠ .clearMix → s.mix.length = p.frames) :
    (stageWork c p s).mix.length = p.frames := by
  obtain ⟨n, st⟩ := p
  cases st with
  | clearMix => simp [stageWork]
  | oscillator k => exact stageOscillator_mix_length c k s n (h (by simp))
  | envelope => simpa [stageWork] using h (by simp)
  | filter => simpa [stageWork] using h (by simp)
  | scale => exact h (by simp)
  | complete => exact h (by simp)

/-! ## OUTBUF -/

/-- OUTBUF in canonical form, every cell in the window of P_MAX_FRAMES frames. -/
structure MemoryOk (c : Cfg) (m : Memory) : Prop where
  form : Memory.wf m = true
  window : ∀ cell ∈ m, outbufBase ≤ cell.1 ∧ cell.1 < outbufBase + 8 * maxFrames c

/-- A block write from the window's start, of at most P_MAX_FRAMES frames, keeps both. -/
theorem memoryOk_writeFrames (c : Cfg) (m : Memory) (fs : List Frame) (hlen : fs.length ≤ maxFrames c) (h : MemoryOk c m) :
    MemoryOk c (writeFrames m outbufBase fs) := by
  refine ⟨wf_writeFrames fs m _ h.form, fun cell hcell => ?_⟩
  rcases mem_writeFrames fs m _ cell hcell with hnew | hold
  · omega
  · exact h.window cell hold

/-- Only the scaling stage writes OUTBUF. -/
theorem stageWork_outbuf (c : Cfg) (p : Progress) (s : State) (h : p.stage ≠ .scale) :
    (stageWork c p s).outbuf = s.outbuf := by
  obtain ⟨n, st⟩ := p
  cases st with
  | scale => exact absurd rfl h
  | oscillator k => exact stageOscillator_outbuf c n k s
  | _ => rfl

theorem OutbufOk.memory {c : Cfg} {s : State} (h : OutbufOk c s) : MemoryOk c s.outbuf := ⟨h.form, h.window⟩

/-- A stage of a running PROCESS leaves OUTBUF in its form and window. -/
theorem memoryOk_stageWork (c : Cfg) (p : Progress) (s : State) (hp : s.progress = some p) (h : OutbufOk c s) :
    MemoryOk c (stageWork c p s).outbuf := by
  by_cases hst : p.stage = .scale
  · have hmix : s.mix.length = p.frames := h.mix p hp (by simp [hst])
    have hlen : (outputFrames s).length ≤ maxFrames c := by
      rw [outputFrames_length, hmix]
      exact h.frames p hp
    rw [stageWork, hst]
    exact memoryOk_writeFrames c _ _ hlen h.memory
  · rw [stageWork_outbuf c p s hst]
    exact h.memory

/-- A stage leaves the frame count as it is and MIX with that many frames. -/
theorem outbufOk_runStage (c : Cfg) (s : State) (h : OutbufOk c s) : OutbufOk c (runStage c s) := by
  cases hp : s.progress with
  | none =>
    rw [runStage_idle c s hp]
    exact h
  | some p =>
    have hmem := memoryOk_stageWork c p s hp h
    have hmix := stageWork_mix_length c p s (h.mix p hp)
    have hrun : runStage c s = { stageWork c p s with
        progress := (nextStage p.stage).map (fun st => { frames := p.frames, stage := st }) } := by
      simp only [runStage, hp]
    have hframes : ∀ q, (runStage c s).progress = some q → q.frames = p.frames := by
      intro q hq
      rw [runStage_progress c s p hp, Option.map_eq_some_iff] at hq
      obtain ⟨st, -, rfl⟩ := hq
      rfl
    rw [hrun] at hframes ⊢
    exact
      { form := hmem.form
        window := hmem.window
        frames := fun q hq => by rw [hframes q hq]; exact h.frames p hp
        mix := fun q hq _ => by rw [hframes q hq]; exact hmix }

/-- A just accepted PROCESS has its MIX still to clear. -/
theorem outbufOk_acceptProcess (c : Cfg) (n : Nat) (s : State) (hn : n ≤ maxFrames c) (h : OutbufOk c s) :
    OutbufOk c (acceptProcess n s) where
  form := h.form
  window := h.window
  frames p hp := by
    rw [acceptProcess_progress, Option.some.injEq] at hp
    rw [← hp]
    exact hn
  mix p hp hst := by
    rw [acceptProcess_progress, Option.some.injEq] at hp
    rw [← hp] at hst
    exact absurd rfl hst

/-- An idle block with nothing written. -/
theorem outbufOk_of_empty (c : Cfg) (s : State) (hm : s.outbuf = []) (hp : s.progress = none) : OutbufOk c s where
  form := by rw [hm]; rfl
  window := by simp [hm]
  frames := by simp [hp]
  mix := by simp [hp]

theorem keptByParts_outbufOk : KeptByParts (OutbufOk Config.machine) where
  host s t h hs :=
    { form := by rw [h.outbuf]; exact hs.form
      window := by rw [h.outbuf]; exact hs.window
      frames := by rw [h.progress]; exact hs.frames
      mix := by rw [h.progress, h.mix]; exact hs.mix }
  stage := outbufOk_runStage _
  accept n s hn hs := outbufOk_acceptProcess _ n s hn hs
  noteOn _ _ hs := ⟨hs.form, hs.window, hs.frames, hs.mix⟩
  noteOff _ hs := ⟨hs.form, hs.window, hs.frames, hs.mix⟩
  reset s := outbufOk_of_empty _ _ rfl rfl

/-- Settles O44: a decoded PROCESS has a legal frame count, MIX keeps that many frames through the stages, and so the scaling stage
writes inside the window. -/
theorem everyStepKeepsTheOutbufForm : Obligations.EveryStepKeepsTheOutbufForm :=
  ⟨outbufOk_of_empty _ _ rfl rfl, keptByParts_outbufOk.step⟩

end Sys2Proof.Machine
end

section
/-! SUPPORT. Commands at both paces (10_state.md R43, R60, R77, 60_exceptions.md R372) and what a PROCESS leaves unchanged. -/

namespace Sys2Proof.Machine

/-! ## A command taken -/

/-- The word at bits 31:0 of the opcode table is the word itself. -/
theorem decode_of_decodeTableWord (w : Nat) (i : Instr) (h : decodeTableWord 32 w = some i) :
    decode (BitVec.ofNat 32 (w % 2 ^ 32)) = .ok i := by
  unfold decodeTableWord at h
  cases hd : decode (BitVec.ofNat 32 (w % 2 ^ 32)) with
  | error e =>
    rw [hd] at h
    cases h
  | ok j =>
    rw [hd] at h
    cases h
    rfl

/-- A decoded command that the engine can take now runs in this step. -/
theorem step_of_decoded (s : State) (a : Access) (rest : List HostMove) (w : Word) (i : Instr)
    (h : s.inbox = .access a :: rest) (hw : submittedWord Config.machine a = some w) (hd : decode w = .ok i)
    (hrun : s.pace = .whole ∨ (s.busy = false ∧ ∀ n, i ≠ .process n)) : step s = exec i { s with inbox := rest } := by
  rw [step, fetch_of_submitted s a rest w h hw, fetchCommand_taken w rest s (hrun.imp_right And.left),
    takeCommand_ok w { s with inbox := rest } i hd (hrun.imp_right And.right)]

/-- Settles O5: the word is taken, not held, and a decoded command goes to `exec`; the placed word is such an access. -/
theorem stepRunsTheDecodedCommand : Obligations.StepRunsTheDecodedCommand := by
  refine ⟨step_of_decoded, fun s w i hi => ?_⟩
  exact step_of_decoded (s.withFetchWord 32 w) _ s.inbox _ i rfl (submittedWord_cmdWrite _ _)
    (decode_of_decodeTableWord w i hi) (.inl rfl)

/-! ## A command held -/

/-- A CMD write during BUSY at the staged pace stays first while the engine runs one stage. -/
theorem step_of_held (s : State) (a : Access) (rest : List HostMove) (w : Word) (h : s.inbox = .access a :: rest)
    (hw : submittedWord Config.machine a = some w) (hp : s.pace = .staged) (hb : s.busy = true) :
    step s = .next (runStage Config.machine s) := by
  rw [step, fetch_of_submitted s a rest w h hw, fetchCommand_held w rest s hb hp]

/-- With a CMD write held, at most n steps reach what n stages leave: it is held as long as a stage is left. -/
theorem run_of_held (n : Nat) (s : State) (a : Access) (rest : List HostMove) (w : Word) (h : s.inbox = .access a :: rest)
    (hw : submittedWord Config.machine a = some w) (hp : s.pace = .staged) :
    ∃ k, k ≤ n ∧ Host.Core.run core k s = .next (runStages Config.machine n s) := by
  induction n generalizing s with
  | zero => exact ⟨0, le_rfl, rfl⟩
  | succ n ih =>
    cases hb : s.busy
    · refine ⟨0, Nat.zero_le _, ?_⟩
      rw [runStages_idle _ _ s ((not_busy_iff s).mp hb)]
      rfl
    · obtain ⟨k, hk, hrun⟩ := ih (runStage Config.machine s) (by simpa using h) (by simpa using hp)
      exact ⟨k + 1, by omega, (run_succ_of_step k s _ (step_of_held s a rest w h hw hp hb)).trans hrun⟩

/-- Settles O7: each step at which the write is held is one stage, and eight stages complete every PROCESS. -/
theorem heldCommandWaitsUntilTheProcessCompletes : Obligations.HeldCommandWaitsUntilTheProcessCompletes := by
  intro s a rest w h hw hp hb
  obtain ⟨k, hk, hrun⟩ := run_of_held stageCount s a rest w h hw hp
  exact ⟨⟨_, step_of_held s a rest w h hw hp hb, runStage_inbox _ s⟩,
    k, awaitIdle Config.machine s, hk, hrun, awaitIdle_not_busy _ s, awaitIdle_inbox _ s, rfl⟩

/-! ## Staged and whole -/

/-- At the staged pace an idle block accepts a PROCESS in one step. -/
theorem step_of_staged_process (s : State) (a : Access) (rest : List HostMove) (w : Word) (n : Nat)
    (h : s.inbox = .access a :: rest) (hw : submittedWord Config.machine a = some w) (hd : decode w = .ok (.process n))
    (hp : s.pace = .staged) (hb : s.busy = false) : step s = .next (acceptProcess n { s with inbox := rest }) := by
  rw [step, fetch_of_submitted s a rest w h hw, fetchCommand_taken w rest s (.inr hb),
    takeCommand_staged w { s with inbox := rest } n hd hp]

/-- A PROCESS plays no part in the moves and the pace, nor they in it. -/
theorem processWhole_update (c : Cfg) (n : Nat) (s : State) (inbox : List HostMove) (pace : Pace) :
    processWhole c n { s with inbox := inbox, pace := pace } =
      { processWhole c n s with inbox := inbox, pace := pace } := by
  rw [← runStages_acceptProcess, ← runStages_acceptProcess]
  have hup := runStages_update c stageCount (acceptProcess n s) s.ctl inbox pace
  exact hup.trans (by simp)

/-- Settles O39: the stages that follow an acceptance are those of the whole PROCESS, and with no move left a step is a stage. -/
theorem stagedRunEqualsTheWholeProcess : Obligations.StagedRunEqualsTheWholeProcess := by
  refine ⟨fun c n s _ => runStages_acceptProcess c n s, fun n s hb hn => ?_⟩
  have hstep := step_of_staged_process { s with pace := .staged, inbox := [.access (cmdWrite (encode (.process n)))] }
    _ [] _ n rfl (submittedWord_cmdWrite _ _) (decodeWith_encode_process _ n hn) rfl hb
  rw [run_succ_of_step 8 _ _ hstep, run_of_nil 8 _ rfl, runStages_acceptProcess]
  exact congrArg Host.Outcome.next (processWhole_update Config.machine n s [] .staged)

/-! ## What a PROCESS leaves unchanged -/

/-- An oscillator's stage leaves the phase and the SCRATCH of every disabled oscillator. -/
theorem stageOscillator_of_disabled (c : Cfg) (n : Nat) (k j : OscId) (s : State) (h : (s.snap.osc j).en = false) :
    (stageOscillator c n k s).phases.get j = s.phases.get j ∧ (stageOscillator c n k s).scratch.get j = s.scratch.get j := by
  cases hen : (s.snap.osc k).en
  · rw [stageOscillator_disabled c n k s hen]
    exact ⟨rfl, rfl⟩
  · have hj : j ≠ k := by
      rintro rfl
      simp [h] at hen
    rw [stageOscillator_enabled c n k s hen]
    exact ⟨Phases.get_set_other _ _ _ _ hj, Scratch.get_set_other _ _ _ _ hj⟩

theorem processWhole_of_disabled (c : Cfg) (n : Nat) (j : OscId) (s : State) (h : (s.ctl.osc j).en = false) :
    (processWhole c n s).phases.get j = s.phases.get j ∧ (processWhole c n s).scratch.get j = s.scratch.get j := by
  simp [processWhole, stageOscillator_of_disabled, h]

/-- Settles O33: no stage writes the control file, the flags or the model's own fields, and an oscillator's stage writes its own
registers only, and only when it is enabled. -/
theorem processLeavesControlsAndDisabledOscillators : Obligations.ProcessLeavesControlsAndDisabledOscillators := by
  intro n s hb
  obtain ⟨hill, herr, hctl, hinbox, hpace, hread, hreads, hresets, -, -⟩ := processWhole_frame Config.machine n s
  refine ⟨processWhole Config.machine n s, ?_, processWhole_busy _ _ _, hctl, hill, herr, hinbox, hpace, hread, hreads,
    hresets, fun k hk => processWhole_of_disabled _ n k s hk⟩
  rw [exec_process, awaitIdle_idle _ s hb]

end Sys2Proof.Machine
end

section
/-! SUPPORT. Legal accesses of the host to the registers and to OUTBUF (20_memory.md R101, R102, R111, R112, 10_state.md R42 to R71). -/

namespace Sys2Proof.Machine

/-! ## Where a legal access leads -/

theorem locate_regOffset (c : Cfg) (r : Reg) : locate c (regOffset r) .word = some (.reg r) := by
  have haligned : (regOffset r).toNat % 4 = 0 ∧ (regOffset r).toNat < outbufBase := by cases r <;> decide
  simp [locate, haligned, regAt_regOffset]

theorem locateWrite_regOffset (c : Cfg) (r : Reg) : locateWrite c (regOffset r) .word 0xF#4 = some (.reg r) := by
  rw [locateWrite, if_pos rfl, locate_regOffset]

/-- The offset of OUTBUF[i] leads to OUTBUF[i]. -/
theorem locate_outbuf (c : Cfg) (i : Nat) (h : i < 2 * maxFrames c) :
    locate c (BitVec.ofNat 17 (outbufBase + 4 * i)) .word = some (.outbuf i) := by
  have hmax := maxFrames_le c
  have hbase : outbufBase = 0x10000 := rfl
  have hoff : (BitVec.ofNat 17 (outbufBase + 4 * i)).toNat = outbufBase + 4 * i := by
    rw [BitVec.toNat_ofNat, Nat.mod_eq_of_lt (by omega)]
  rw [locate, hoff, if_neg (by simp; omega), if_neg (by omega), if_pos (by omega), Nat.add_sub_cancel_left,
    Nat.mul_div_cancel_left i (by decide)]

/-! ## Reads -/

theorem step_of_read (s : State) (rest : List HostMove) (off : Offset) (size : AccessSize)
    (h : s.inbox = .access (.read off size) :: rest) :
    step s = .next (busRead Config.machine off size { s with inbox := rest }) := step_of_access s _ rest h rfl

/-- A legal read returns what its location holds, unless the location is undefined while BUSY and the block is busy. -/
theorem busRead_defined (c : Cfg) (off : Offset) (size : AccessSize) (s : State) (loc : Location)
    (hloc : locate c off size = some loc) (h : (loc.undefinedWhileBusy && s.busy) = false) :
    busRead c off size s = { s with lastRead := some (locationValue c s loc) } := by
  simp [busRead, hloc, h]

/-- A legal read of such a location while BUSY returns the next free value. -/
theorem busRead_free (c : Cfg) (off : Offset) (size : AccessSize) (s : State) (loc : Location)
    (hloc : locate c off size = some loc) (hu : loc.undefinedWhileBusy = true) (hb : s.busy = true) :
    busRead c off size s = { s with lastRead := some (c.busyRead s.busyReads), busyReads := s.busyReads + 1 } := by
  simp [busRead, hloc, hu, hb]

/-- A step that reads a register other than an observation register. -/
theorem step_of_read_reg (s : State) (rest : List HostMove) (r : Reg) (hr : isObservation r = false)
    (h : s.inbox = .access (.read (regOffset r) .word) :: rest) :
    step s = .next { s with inbox := rest, lastRead := some (regValue s r) } := by
  rw [step_of_read s rest _ _ h, busRead_defined _ _ _ _ (.reg r) (locate_regOffset _ r) (by simp [Location.undefinedWhileBusy, hr])]
  rfl

/-- A step that reads a location whose reads are undefined while BUSY. -/
theorem step_of_read_undefinedWhileBusy (s : State) (rest : List HostMove) (off : Offset) (loc : Location)
    (hloc : locate Config.machine off .word = some loc) (hu : loc.undefinedWhileBusy = true)
    (h : s.inbox = .access (.read off .word) :: rest) :
    (s.busy = false → step s = .next { s with
      inbox := rest, lastRead := some (locationValue Config.machine { s with inbox := rest } loc) }) ∧
    (s.busy = true → step s = .next { s with
      inbox := rest, lastRead := some (Config.busyRead s.busyReads), busyReads := s.busyReads + 1 }) := by
  rw [step_of_read s rest _ _ h]
  constructor
  · intro hb
    have hidle : (loc.undefinedWhileBusy && State.busy { s with inbox := rest }) = false := by
      rw [Bool.and_eq_false_iff]
      exact .inr hb
    rw [busRead_defined _ _ _ _ loc hloc hidle]
  · intro hb
    rw [busRead_free _ _ _ { s with inbox := rest } loc hloc hu hb]
    rfl

/-- Settles O13: an observation register and a word of OUTBUF are the locations whose reads are undefined while BUSY. -/
theorem readsDuringBusyAreFree : Obligations.ReadsDuringBusyAreFree :=
  ⟨fun s rest r hr h => step_of_read_undefinedWhileBusy s rest _ (.reg r) (locate_regOffset _ r) hr h,
    fun s rest i hi h => step_of_read_undefinedWhileBusy s rest _ (.outbuf i) (locate_outbuf _ i hi) rfl h⟩

/-! ## Writes -/

/-- A step that writes a register other than CMD. -/
theorem step_of_write_reg (s : State) (rest : List HostMove) (r : Reg) (v : Word) (hr : r ≠ .cmd)
    (h : s.inbox = .access (.write (regOffset r) .word 0xF#4 v) :: rest) :
    step s = .next (writeReg r v { s with inbox := rest }) := by
  have hnone : submittedWord Config.machine (.write (regOffset r) .word 0xF#4 v) = none := by
    simp [submittedWord, locateWrite_regOffset, hr]
  rw [step_of_access s _ rest h hnone, busAccess, busWrite, locateWrite_regOffset]

theorem writeReg_of_ne_status (r : Reg) (v : Word) (s : State) (hr : r ≠ .status) :
    writeReg r v s = { s with ctl := writeControl r v s.ctl } := by
  cases r with
  | status => exact absurd rfl hr
  | _ => rfl

theorem isControl_iff (r : Reg) : isControl r = true ↔ isObservation r = false ∧ r ≠ .cmd ∧ r ≠ .status := by
  simp [isControl, and_assoc]

/-- A step that writes a control register stores by the register's fields and changes nothing else, busy or idle. -/
theorem step_of_write_control (s : State) (rest : List HostMove) (r : Reg) (v : Word) (hr : isControl r = true)
    (h : s.inbox = .access (.write (regOffset r) .word 0xF#4 v) :: rest) :
    step s = .next { s with inbox := rest, ctl := writeControl r v s.ctl } := by
  obtain ⟨-, hcmd, hstatus⟩ := (isControl_iff r).mp hr
  rw [step_of_write_reg s rest r v hcmd h, writeReg_of_ne_status r v _ hstatus]

/-! ## STATUS -/

/-- The four flags side by side: each in its own bit, nothing above. -/
theorem flagBits_getLsbD (busy ill busErr valid : Bool) :
    let w := flagBit busy ||| (flagBit ill <<< 1) ||| (flagBit busErr <<< 2) ||| (flagBit valid <<< 3)
    w.getLsbD 0 = busy ∧ w.getLsbD 1 = ill ∧ w.getLsbD 2 = busErr ∧ w.getLsbD 3 = valid ∧ w.toNat < 16 := by
  revert busy ill busErr valid
  decide

/-- Settles O10: the word read is the four flags side by side, and a write clears by its bits 1 and 2. -/
theorem statusReadsItsFlagsAndClearsOnOne : Obligations.StatusReadsItsFlagsAndClearsOnOne :=
  ⟨fun s rest h => ⟨statusWord s, step_of_read_reg s rest .status rfl h, flagBits_getLsbD s.busy s.ill s.busErr s.filt.coefValid⟩,
    fun s rest v h => step_of_write_reg s rest .status v (by decide) h⟩

/-! ## The control file -/

/-- A write of one register leaves what every other register reads: the map gives each field of the control file to one register. -/
theorem regValue_writeControl_other (s : State) (r r' : Reg) (v : Word) (h : r' ≠ r) :
    regValue { s with ctl := writeControl r v s.ctl } r' = regValue s r' := by
  cases r <;> cases r' <;> first | rfl | exact absurd rfl h

/-- Settles O11: the write stores into the control file, whose fields are one register's each; a control register's read is always
defined. -/
theorem controlWriteChangesOnlyItsRegister : Obligations.ControlWriteChangesOnlyItsRegister := by
  intro s rest r v hr
  obtain ⟨hobs, -, -⟩ := (isControl_iff r).mp hr
  exact ⟨fun h => ⟨step_of_write_control s rest r v hr h,
      fun r' hne => regValue_writeControl_other { s with inbox := rest } r r' v hne⟩,
    fun h => step_of_read_reg s rest r hobs h⟩

/-- Settles O40: the control file is stored in one step; the stages read the snapshot, not the file; an acceptance latches it. -/
theorem controlWritesMissTheRunningProcess : Obligations.ControlWritesMissTheRunningProcess := by
  refine ⟨step_of_write_control, fun s k w => ?_, fun _ _ _ => rfl⟩
  exact (runStages_update Config.machine k s w s.inbox s.pace).trans (by simp)

/-! ## What a control register reads back -/

theorem flagBit_getLsbD_zero (v : Word) : flagBit (v.getLsbD 0) = v &&& 1#32 := by
  rw [BitVec.and_one_eq_setWidth_ofBool_getLsbD]
  cases v.getLsbD 0 <;> rfl

/-- A legal WAVE code is stored; code 3 is not (10_state.md R47). -/
theorem waveCode_stored (x : BitVec 2) (hx : x ≠ 3#2) (old : Wave) :
    waveCode ((waveOfCode x).getD old) = x.setWidth 32 := by
  revert x
  cases old <;> decide

theorem waveOfCode_three : waveOfCode 3#2 = none := by decide

/-- The three low bits of a word are EN below WAVE. -/
theorem and_seven (v : Word) : v &&& 7#32 = (v &&& 1#32) ||| ((v.extractLsb' 1 2).setWidth 32 <<< 1) := by
  ext i hi
  match i with
  | 0 => simp
  | 1 => simp
  | 2 => simp
  | i + 3 =>
    have hbit : (7#32)[i + 3] = false := by
      have hpow : 2 ^ 3 ≤ 2 ^ (i + 3) := Nat.pow_le_pow_right (by decide) (by omega)
      rw [BitVec.getElem_eq_testBit_toNat]
      exact Nat.testBit_lt_two_pow (Nat.lt_of_lt_of_le (by decide) hpow)
    simp [hbit]

theorem oscCtrlWord_and_six (o : OscRegs) : oscCtrlWord o &&& 6#32 = waveCode o.wave <<< 1 := by
  rw [oscCtrlWord]
  cases o.en <;> cases o.wave <;> rfl

/-- What OSCk_CTRL reads after a write. -/
theorem oscCtrlWord_writeOscCtrl (v : Word) (o : OscRegs) : oscCtrlWord (writeOscCtrl v o) =
    if v.extractLsb' 1 2 = 3#2 then (oscCtrlWord o &&& 6#32) ||| (v &&& 1#32) else v &&& 7#32 := by
  rw [oscCtrlWord, writeOscCtrl, flagBit_getLsbD_zero]
  split
  · rename_i h3
    rw [h3, waveOfCode_three, oscCtrlWord_and_six, Option.getD_none, BitVec.or_comm]
  · rename_i hlegal
    rw [waveCode_stored _ hlegal, and_seven]

/-- Settles O12: each control register reads back its stored fields. -/
theorem controlRegistersReadBackTheirFields : Obligations.ControlRegistersReadBackTheirFields := by
  intro s rest r v hr h
  refine ⟨_, step_of_write_control s rest r v hr h, ?_⟩
  cases r with
  | osc0Ctrl => exact oscCtrlWord_writeOscCtrl v s.ctl.osc0
  | osc1Ctrl => exact oscCtrlWord_writeOscCtrl v s.ctl.osc1
  | osc2Ctrl => exact oscCtrlWord_writeOscCtrl v s.ctl.osc2
  | noteOn => exact flagBit_getLsbD_zero v
  | osc0Offset | osc1Offset | osc2Offset | attackTime | releaseTime | cutoff | resonance | autoAmount | autoFreq | volume
  | octave | noteFreq => rfl
  | _ => exact absurd hr (by decide)

end Sys2Proof.Machine
end

section
/-! SUPPORT. Bad accesses and accesses in the wrong direction (20_memory.md R108). -/

namespace Sys2Proof.Machine

/-! ## Where a bad access leads -/

theorem regAt_eq_none (off : Offset) (h : ∀ r, regOffset r ≠ off) : regAt off = none := by
  cases hr : regAt off with
  | none => rfl
  | some r => exact absurd (regOffset_of_regAt off r hr) (h r)

/-- The registers lie below OUTBUF, so an offset reserved by the map leads nowhere on either side of its base. -/
theorem locate_of_reservedOffset (c : Cfg) (off : Offset) (size : AccessSize) (h : ReservedOffset c off) :
    locate c off size = none := by
  obtain ⟨hreg, hwindow⟩ := h
  have hbase : outbufBase = 0x10000 := rfl
  rw [locate]
  split
  · rfl
  split
  · rw [regAt_eq_none off hreg, Option.map_none]
  · rw [if_neg (by omega)]

/-- A wrong size, a misaligned offset and a reserved one lead nowhere. -/
theorem locate_of_bad (c : Cfg) (off : Offset) (size : AccessSize)
    (h : size ≠ .word ∨ off.toNat % 4 ≠ 0 ∨ ReservedOffset c off) : locate c off size = none := by
  rcases h with hsize | halign | hreserved
  · simp [locate, hsize]
  · simp [locate, halign]
  · exact locate_of_reservedOffset c off size hreserved

/-- So does a write with some byte enable off. -/
theorem locateWrite_of_bad (c : Cfg) (off : Offset) (size : AccessSize) (lanes : BitVec 4)
    (h : size ≠ .word ∨ off.toNat % 4 ≠ 0 ∨ ReservedOffset c off ∨ lanes ≠ 0xF#4) :
    locateWrite c off size lanes = none := by
  rw [locateWrite]
  split
  · rename_i hlanes
    exact locate_of_bad c off size (by simpa [hlanes] using h)
  · rfl

/-! ## Steps -/

theorem busRead_of_bad (c : Cfg) (off : Offset) (size : AccessSize) (s : State) (h : locate c off size = none) :
    busRead c off size s = { s with busErr := true, lastRead := some 0#32 } := by
  simp [busRead, h, raiseCause]

/-- A write that does not lead to CMD submits nothing, so its step is the write. -/
theorem step_of_write (s : State) (rest : List HostMove) (off : Offset) (size : AccessSize) (lanes : BitVec 4) (v : Word)
    (hcmd : locateWrite Config.machine off size lanes ≠ some (.reg .cmd))
    (h : s.inbox = .access (.write off size lanes v) :: rest) :
    step s = .next (busWrite Config.machine off size lanes v { s with inbox := rest }) :=
  step_of_access s _ rest h (by simp [submittedWord, hcmd])

/-- A step whose write leads nowhere. -/
theorem step_of_bad_write (s : State) (rest : List HostMove) (off : Offset) (size : AccessSize) (lanes : BitVec 4) (v : Word)
    (hloc : locateWrite Config.machine off size lanes = none) (h : s.inbox = .access (.write off size lanes v) :: rest) :
    step s = .next { s with inbox := rest, busErr := true } := by
  rw [step_of_write s rest off size lanes v (by simp [hloc]) h, busWrite, hloc]
  rfl

/-- A step whose write leads to a word of OUTBUF, which the host cannot write. -/
theorem step_of_write_outbuf (s : State) (rest : List HostMove) (off : Offset) (i : Nat) (v : Word)
    (hloc : locate Config.machine off .word = some (.outbuf i)) (h : s.inbox = .access (.write off .word 0xF#4 v) :: rest) :
    step s = .next { s with inbox := rest } := by
  have hwrite : locateWrite Config.machine off .word 0xF#4 = some (.outbuf i) := by rw [locateWrite, if_pos rfl, hloc]
  rw [step_of_write s rest off .word 0xF#4 v (by simp [hwrite]) h, busWrite, hwrite]

/-- The observation registers are read-only: none has a field in the control file. -/
theorem writeReg_of_isObservation (r : Reg) (v : Word) (s : State) (hr : isObservation r = true) : writeReg r v s = s := by
  cases r with
  | osc0Phase | osc1Phase | osc2Phase | lfoPhase | envState | envValue | envAttackRate | envReleaseRate | filtLastCutoff
  | filtA0 | filtA1 | filtA2 | filtB1 | filtB2 | hlX1 | hlX2 | hlY1 | hlY2 | hrX1 | hrX2 | hrY1 | hrY2 => rfl
  | _ => exact absurd hr (by decide)

theorem step_of_write_observation (s : State) (rest : List HostMove) (r : Reg) (v : Word) (hr : isObservation r = true)
    (h : s.inbox = .access (.write (regOffset r) .word 0xF#4 v) :: rest) : step s = .next { s with inbox := rest } := by
  have hcmd : r ≠ .cmd := by
    rintro rfl
    exact absurd hr (by decide)
  rw [step_of_write_reg s rest r v hcmd h, writeReg_of_isObservation r v _ hr]

/-- Settles O9: the bad accesses are those that lead nowhere; of the others, OUTBUF and the observation registers ignore a write and
CMD reads 0. -/
theorem badAccessSetsOnlyBusErr : Obligations.BadAccessSetsOnlyBusErr := by
  refine ⟨fun s rest off size hbad h => ?_, fun s rest off size lanes v hbad h => ?_, step_of_write_observation,
    fun s rest i v hi h => ?_, fun s rest h => ?_⟩
  · rw [step_of_read s rest off size h, busRead_of_bad _ _ _ _ (locate_of_bad _ off size hbad)]
  · exact step_of_bad_write s rest off size lanes v (locateWrite_of_bad _ off size lanes hbad) h
  · exact step_of_write_outbuf s rest _ i v (locate_outbuf _ i hi) h
  · exact step_of_read_reg s rest .cmd rfl h

end Sys2Proof.Machine
end

section
/-! SUPPORT. The words the decoder takes and refuses, the word of a command, and the step of an ILLEGAL word (30_encoding.md R141 to
R149, R152). -/

namespace Sys2Proof.Machine

/-! ## The fields of a word (R141, R143, R146) -/

theorem opcField_append_argField (w : Word) : opcField w ++ argField w = w :=
  BitVec.extractLsb'_append_extractLsb'

theorem noteReserved_append (w : Word) : noteReserved w ++ w.extractLsb' 0 16 = argField w :=
  BitVec.extractLsb'_append_extractLsb'_eq_extractLsb' rfl

/-- Sign extension keeps the value of ARG's low half. -/
theorem noteOperand_eq_toInt (w : Word) : noteOperand w = (w.extractLsb' 0 16).toInt :=
  BitVec.toInt_signExtend_of_le (by decide)

/-- Zero extension keeps the value of ARG. -/
theorem framesOperand_eq_toNat (w : Word) : framesOperand w = (argField w).toNat :=
  BitVec.toNat_setWidth_of_le (by decide)

/-! ## The words of NOTE_ON -/

/-- A 16-bit two's complement number is a legal semitone index. -/
theorem wfWith_noteOn_noteOperand (c : Cfg) (w : Word) : (Instr.noteOn (noteOperand w)).wfWith c = true := by
  rw [noteOperand_eq_toInt]
  have hlo := BitVec.le_toInt (w.extractLsb' 0 16)
  have hhi := BitVec.toInt_lt (x := w.extractLsb' 0 16)
  simp only [Instr.wfWith, Bool.and_eq_true, decide_eq_true_eq]
  omega

/-- The word of a NOTE_ON as OPC above ARG. -/
theorem encode_noteOn (note : Int) : encode (.noteOn note) = 0x01#8 ++ (0x00#8 ++ BitVec.ofInt 16 note) :=
  BitVec.append_assoc

theorem opcField_encode_noteOn (note : Int) : opcField (encode (.noteOn note)) = 0x01#8 := by
  rw [encode_noteOn, opcField, BitVec.extractLsb'_append_eq_left]

theorem noteReserved_encode_noteOn (note : Int) : noteReserved (encode (.noteOn note)) = 0 := by
  rw [encode, noteReserved, BitVec.extractLsb'_append_eq_of_le (by decide)]
  decide

/-- A legal semitone index survives the cut to 16 bits. -/
theorem noteOperand_encode_noteOn (note : Int) (hlo : -32768 ≤ note) (hhi : note ≤ 32767) :
    noteOperand (encode (.noteOn note)) = note := by
  rw [noteOperand_eq_toInt, encode, BitVec.extractLsb'_append_eq_right, BitVec.toInt_ofInt]
  exact Int.bmod_eq_of_le hlo (Int.lt_add_one_of_le hhi)

/-! ## What the decoder answers -/

/-- The answers of the decoder, each with the fields of the word that give it (R142 to R148). -/
inductive DecodeCase (c : Cfg) (w : Word) : Except Illegal Instr → Prop where
  | noteOn (hopc : opcField w = 0x01#8) (hres : noteReserved w = 0) : DecodeCase c w (.ok (.noteOn (noteOperand w)))
  | noteOff (hopc : opcField w = 0x02#8) (harg : argField w = 0) : DecodeCase c w (.ok .noteOff)
  | process (hopc : opcField w = 0x03#8) (hn : framesOperand w ≤ maxFrames c) :
      DecodeCase c w (.ok (.process (framesOperand w)))
  | noteOnReservedBits (hopc : opcField w = 0x01#8) (hres : noteReserved w ≠ 0) : DecodeCase c w (.error .noteOnReservedBits)
  | noteOffReservedBits (hopc : opcField w = 0x02#8) (harg : argField w ≠ 0) : DecodeCase c w (.error .noteOffReservedBits)
  | tooManyFrames (hopc : opcField w = 0x03#8) (hn : maxFrames c < framesOperand w) :
      DecodeCase c w (.error (.tooManyFrames (framesOperand w)))
  | reservedOpcode (h1 : opcField w ≠ 0x01#8) (h2 : opcField w ≠ 0x02#8) (h3 : opcField w ≠ 0x03#8) :
      DecodeCase c w (.error (.reservedOpcode (opcField w)))

/-- The one inversion of the decoder. -/
theorem decodeCase_decodeWith (c : Cfg) (w : Word) : DecodeCase c w (decodeWith c w) := by
  unfold decodeWith
  split_ifs with h1 hres h2 harg h3 hn
  · exact .noteOn h1 hres
  · exact .noteOnReservedBits h1 hres
  · exact .noteOff h2 harg
  · exact .noteOffReservedBits h2 harg
  · exact .tooManyFrames h3 hn
  · exact .process h3 (Nat.le_of_not_lt hn)
  · exact .reservedOpcode h1 h2 h3

/-- A NOTE_ON with a legal semitone index is read back from its word. -/
theorem decodeWith_encode_noteOn (c : Cfg) (note : Int) (hlo : -32768 ≤ note) (hhi : note ≤ 32767) :
    decodeWith c (encode (.noteOn note)) = .ok (.noteOn note) := by
  rw [decodeWith, if_pos (opcField_encode_noteOn note), if_pos (noteReserved_encode_noteOn note),
    noteOperand_encode_noteOn note hlo hhi]

/-- Settles O1, by the command: NOTE_OFF has one word, the other two give back their legal operands. -/
theorem decodeOfEncodeIsTheCommand : Obligations.DecodeOfEncodeIsTheCommand := by
  intro c i hwf
  cases i with
  | noteOn note =>
    obtain ⟨hlo, hhi⟩ : -32768 ≤ note ∧ note ≤ 32767 := by simpa [Instr.wfWith] using hwf
    exact decodeWith_encode_noteOn c note hlo hhi
  | noteOff => rfl
  | process n => exact decodeWith_encode_process c n (by simpa [Instr.wfWith] using hwf)

/-- Settles O2, by the three words the decoder takes: each is its OPC above its ARG, and ARG holds nothing but the operand. -/
theorem encodeOfDecodeIsTheWord : Obligations.EncodeOfDecodeIsTheWord := by
  intro c w i h
  have hcase := decodeCase_decodeWith c w
  rw [h] at hcase
  have hw := opcField_append_argField w
  cases hcase with
  | noteOn hopc hres =>
    refine ⟨wfWith_noteOn_noteOperand c w, ?_⟩
    rw [← noteReserved_append, hopc, hres] at hw
    rw [encode_noteOn, noteOperand_eq_toInt, BitVec.ofInt_toInt]
    exact hw
  | noteOff hopc harg =>
    rw [hopc, harg] at hw
    exact ⟨rfl, hw⟩
  | process hopc hn =>
    rw [hopc] at hw
    refine ⟨by simpa [Instr.wfWith] using hn, ?_⟩
    rw [encode, framesOperand_eq_toNat, BitVec.ofNat_toNat, BitVec.setWidth_eq]
    exact hw

/-! ## ILLEGAL words -/

/-- R148's list in the fields of the word. -/
theorem illegalWord_iff (c : Cfg) (w : Word) : IllegalWord c w ↔
    (opcField w ≠ 0x01#8 ∧ opcField w ≠ 0x02#8 ∧ opcField w ≠ 0x03#8) ∨ (opcField w = 0x01#8 ∧ noteReserved w ≠ 0) ∨
    (opcField w = 0x02#8 ∧ argField w ≠ 0) ∨ (opcField w = 0x03#8 ∧ maxFrames c < framesOperand w) := by
  rw [framesOperand_eq_toNat]
  rfl

theorem illegalWord_of_error (c : Cfg) (w : Word) (e : Illegal) (h : decodeWith c w = .error e) : IllegalWord c w := by
  have hcase := decodeCase_decodeWith c w
  rw [h] at hcase
  rw [illegalWord_iff]
  cases hcase with
  | reservedOpcode h1 h2 h3 => exact .inl ⟨h1, h2, h3⟩
  | noteOnReservedBits hopc hres => exact .inr (.inl ⟨hopc, hres⟩)
  | noteOffReservedBits hopc harg => exact .inr (.inr (.inl ⟨hopc, harg⟩))
  | tooManyFrames hopc hn => exact .inr (.inr (.inr ⟨hopc, hn⟩))

theorem error_of_illegalWord (c : Cfg) (w : Word) (h : IllegalWord c w) : ∃ e, decodeWith c w = .error e := by
  rcases (illegalWord_iff c w).mp h with ⟨h1, h2, h3⟩ | ⟨hopc, hres⟩ | ⟨hopc, harg⟩ | ⟨hopc, hn⟩
  · exact ⟨.reservedOpcode (opcField w), by rw [decodeWith, if_neg h1, if_neg h2, if_neg h3]⟩
  · exact ⟨.noteOnReservedBits, by rw [decodeWith, if_pos hopc, if_neg hres]⟩
  · exact ⟨.noteOffReservedBits, by rw [decodeWith, hopc, if_neg (by decide), if_pos rfl, if_neg harg]⟩
  · exact ⟨.tooManyFrames (framesOperand w), by
      rw [decodeWith, hopc, if_neg (by decide), if_neg (by decide), if_pos rfl, if_pos hn]⟩

/-- Settles O4: each refusal of the decoder is one of the kinds R148 lists, and none of these kinds is taken. -/
theorem exactlyTheListedWordsAreIllegal : Obligations.ExactlyTheListedWordsAreIllegal :=
  fun c w => ⟨fun ⟨e, h⟩ => illegalWord_of_error c w e h, error_of_illegalWord c w⟩

/-- Waiting neither reads nor changes the coming moves. -/
theorem awaitIdle_update_inbox (c : Cfg) (s : State) (inbox : List HostMove) :
    awaitIdle c { s with inbox := inbox } = { awaitIdle c s with inbox := inbox } :=
  (runStages_update c stageCount s s.ctl inbox s.pace).trans (by simp [awaitIdle])

/-- An ILLEGAL word that the engine can take now sets ILL once no PROCESS runs, and nothing else (R148, R364). -/
theorem step_of_illegalWord (s : State) (a : Access) (rest : List HostMove) (w : Word) (h : s.inbox = .access a :: rest)
    (hw : submittedWord Config.machine a = some w) (hrun : s.pace = .whole ∨ s.busy = false)
    (hill : IllegalWord Config.machine w) :
    step s = .next { awaitIdle Config.machine s with inbox := rest, ill := true } := by
  obtain ⟨e, he⟩ := error_of_illegalWord _ w hill
  rw [step, fetch_of_submitted s a rest w h hw, fetchCommand_taken w rest s hrun, takeCommand_error w _ e he,
    awaitIdle_update_inbox]
  rfl

/-- Settles O8: an idle block has nothing to wait for. -/
theorem illegalWordSetsOnlyIll : Obligations.IllegalWordSetsOnlyIll := by
  intro s a rest w h hw hb hill
  rw [step_of_illegalWord s a rest w h hw (.inr hb) hill, awaitIdle_idle _ s hb]

/-- Settles O60: at the whole pace the word is taken in every state, and no PROCESS runs after the wait. -/
theorem illegalWordDuringBusySetsIllAfterTheProcess : Obligations.IllegalWordDuringBusySetsIllAfterTheProcess :=
  fun s a rest w h hw hp hill => ⟨step_of_illegalWord s a rest w h hw (.inl hp) hill, awaitIdle_not_busy _ s⟩

/-! ## The words the spec writes out (R152) -/

/-- O1 for a word that is known to be the command's. -/
theorem decodeWith_of_encode (c : Cfg) {i : Instr} {w : Word} (hw : encode i = w) (hwf : i.wfWith c = true) :
    decodeWith c w = .ok i :=
  hw ▸ decodeOfEncodeIsTheCommand c i hwf

/-- Settles O3: the words are computed; they decode to their commands by O1, and the others are refused by O4. -/
theorem writtenOutWordsMeanTheirCommands : Obligations.WrittenOutWordsMeanTheirCommands := by
  have hon : encode (.noteOn 0) = 0x01000000#32 := by decide
  have hon12 : encode (.noteOn 12) = 0x0100000C#32 := by decide
  have honNeg1 : encode (.noteOn (-1)) = 0x0100FFFF#32 := by decide
  have honNeg12 : encode (.noteOn (-12)) = 0x0100FFF4#32 := by decide
  have hoff : encode .noteOff = 0x02000000#32 := by decide
  have hprocess8 : encode (.process 8) = 0x03000008#32 := by decide
  have hprocess0 : encode (.process 0) = 0x03000000#32 := by decide
  have hprocess256 : encode (.process 256) = 0x03000100#32 := by decide
  refine ⟨hon, hon12, honNeg1, honNeg12, hoff, hprocess8, hprocess0, fun c => ?_, fun c hmax => ?_⟩
  · exact ⟨decodeWith_of_encode c hon rfl, decodeWith_of_encode c hon12 rfl, decodeWith_of_encode c honNeg1 rfl,
      decodeWith_of_encode c honNeg12 rfl, decodeWith_of_encode c hoff rfl,
      decodeWith_of_encode c hprocess0 (by simp [Instr.wfWith]),
      error_of_illegalWord c _ (.inl (by decide)), error_of_illegalWord c _ (.inl (by decide)),
      error_of_illegalWord c _ (.inr (.inl (by decide))), error_of_illegalWord c _ (.inr (.inr (.inl (by decide))))⟩
  · exact ⟨hprocess256, decodeWith_of_encode c hprocess8 (by simp [Instr.wfWith, hmax]),
      decodeWith_of_encode c hprocess256 (by simp [Instr.wfWith, hmax]),
      error_of_illegalWord c _ (.inr (.inr (.inr ⟨by decide, by rw [hmax]; decide⟩)))⟩

end Sys2Proof.Machine
end

section
/-! SUPPORT. The samples of a generation: from the phase's range through the waveforms' formulas (40_oscillator.md R182 to R189). -/

namespace Sys2Proof.Machine

/-! ## Results from exact bounds -/

theorem magUnits_le_magUnits {a b : Nat} (hb : b ≤ infMag) (h : a ≤ b) : magUnits a ≤ magUnits b := by
  rcases Nat.eq_or_lt_of_le h with rfl | hlt
  · exact le_rfl
  · exact (magUnits_lt_magUnits hb hlt).le

/-- A product of finite values is the rounded product of the magnitudes, with the sign of the product. -/
theorem fmul_of_isFinite (x y : F32) (hx : isFinite x = true) (hy : isFinite y = true) :
    fmul x y = fpack (fsign x != fsign y) (roundMag (magUnits (fmag x) * magUnits (fmag y)) oneUnits) := by
  simp [fmul, isNaN_of_isFinite, isInf_of_isFinite, hx, hy]

/-- A magnitude that bounds the exact product bounds the rounded one. -/
theorem fmag_fmul_le (x y : F32) (m : Nat) (hx : isFinite x = true) (hy : isFinite y = true) (hm : m ≤ infMag)
    (h : magUnits (fmag x) * magUnits (fmag y) ≤ magUnits m * oneUnits) : fmag (fmul x y) ≤ m := by
  have hround := roundMag_le_of_le _ oneUnits m (by decide) hm h
  rwa [fmul_of_isFinite x y hx hy, fmag_fpack _ _ ((hround.trans hm).trans_lt (by decide))]

/-- A magnitude that bounds the exact difference bounds the rounded one. -/
theorem fmag_fsub_le (x y : F32) (m : Nat) (hx : isFinite x = true) (hy : isFinite y = true) (hm : m ≤ infMag)
    (h : (units x - units y).natAbs ≤ magUnits m) : fmag (fsub x y) ≤ m := by
  have hround : roundMag (units x - units y).natAbs 1 ≤ m := roundMag_le_of_le _ _ _ (by decide) hm (by omega)
  have hy' : isFinite (fneg y) = true := by rw [isFinite_fneg, hy]
  simp only [fsub, fadd, isNaN_of_isFinite, isInf_of_isFinite, hx, hy', units_fneg, ← sub_eq_add_neg, Bool.or_self,
    Bool.false_eq_true, if_false]
  split_ifs
  · exact Nat.zero_le m
  · exact Nat.zero_le m
  · rwa [roundUnits, fmag_fpack _ _ ((hround.trans hm).trans_lt (by decide))]

/-- Values in [+0.0, +inf] are ordered as their patterns. -/
theorem flt_of_nonNegative (x y : F32) (hx : NonNegative x) (hy : NonNegative y) : flt x y = decide (x.toNat < y.toNat) := by
  obtain ⟨hsx, hnx⟩ := (nonNegative_iff x).mp hx
  obtain ⟨hsy, hny⟩ := (nonNegative_iff y).mp hy
  simp [flt, fkey, hsx, hsy, hnx, hny, toNat_eq_fmag]

/-- A finite value with its sign bit clear. -/
theorem finite_of_toNat_lt (x : F32) (h : x.toNat < infMag) :
    isFinite x = true ∧ fsign x = false ∧ fmag x = x.toNat := by
  obtain ⟨hs, -⟩ := (nonNegative_iff x).mp h.le
  have hmag := toNat_eq_fmag x hs
  exact ⟨by rwa [isFinite_iff, ← hmag], hs, hmag.symm⟩

/-- A gain times a value between two patterns is between two patterns that the exact products lie between. -/
theorem fmul_gain_between (g x : F32) (xlo xhi lo hi : Nat) (hxlo : xlo ≤ x.toNat) (hxhi : x.toNat ≤ xhi)
    (hbounds : g.toNat < infMag ∧ xhi < infMag ∧ lo ≤ hi ∧ hi < infMag ∧
      magUnits lo * oneUnits ≤ magUnits g.toNat * magUnits xlo ∧ magUnits g.toNat * magUnits xhi ≤ magUnits hi * oneUnits) :
    isFinite (fmul g x) = true ∧ (magUnits lo : Int) ≤ units (fmul g x) ∧ units (fmul g x) ≤ magUnits hi := by
  obtain ⟨hg, hxinf, hlohi, hinf, hprodLo, hprodHi⟩ := hbounds
  obtain ⟨hfg, hsg, hmg⟩ := finite_of_toNat_lt g hg
  obtain ⟨hfx, hsx, hmx⟩ := finite_of_toNat_lt x (hxhi.trans_lt hxinf)
  have hmul : fmul g x = fpack false (roundMag (magUnits g.toNat * magUnits x.toNat) oneUnits) := by
    rw [fmul_of_isFinite g x hfg hfx, hsg, hsx, hmg, hmx, bne_self_eq_false]
  have hge := le_roundMag_of_le (magUnits g.toNat * magUnits x.toNat) oneUnits lo (by decide) (hlohi.trans hinf.le)
    (hprodLo.trans (Nat.mul_le_mul_left _ (magUnits_le_magUnits (hxhi.trans hxinf.le) hxlo)))
  have hle := roundMag_le_of_le (magUnits g.toNat * magUnits x.toNat) oneUnits hi (by decide) hinf.le
    ((Nat.mul_le_mul_left _ (magUnits_le_magUnits hxinf.le hxhi)).trans hprodHi)
  have hfin := hle.trans_lt hinf
  rw [hmul, units_fpack _ _ (hfin.trans (by decide)), if_neg (by decide)]
  exact ⟨isFinite_fpack _ _ hfin, by exact_mod_cast magUnits_le_magUnits hfin.le hge,
    by exact_mod_cast magUnits_le_magUnits hinf.le hle⟩

/-! ## Samples in [−0.5, 0.5] (R182 to R185) -/

/-- A value of magnitude at most 0.5. -/
theorem inRange_half_of_fmag_le (x : F32) (h : fmag x ≤ 0x3F000000) : inRange fminusHalf fhalf x = true := by
  have hnan : isNaN x = false := decide_eq_false (Nat.not_lt.mpr (h.trans (by decide)))
  have hlo : isNaN fminusHalf = false ∧ fkey fminusHalf = -0x3F000000 := by decide
  have hhi : isNaN fhalf = false ∧ fkey fhalf = 0x3F000000 := by decide
  rw [inRange, Bool.and_eq_true, fle_iff, fle_iff, hlo.2, hhi.2]
  have hkey : -0x3F000000 ≤ fkey x ∧ fkey x ≤ 0x3F000000 := by unfold fkey; split <;> omega
  exact ⟨⟨hlo.1, hnan, hkey.1⟩, hnan, hhi.1, hkey.2⟩

/-- Half the difference of two values no further apart than 1.0. -/
theorem inRange_half_fsub (a b : F32) (ha : isFinite a = true) (hb : isFinite b = true)
    (h : (units a - units b).natAbs ≤ 2 ^ 149) : inRange fminusHalf fhalf (fmul (fsub a b) fhalf) = true := by
  have hone : magUnits 0x3F800000 = 2 ^ 149 := by decide
  have hhalf : isFinite fhalf = true ∧ magUnits (fmag fhalf) = 2 ^ 148 ∧ magUnits 0x3F000000 = 2 ^ 148 := by decide
  have hdiff : fmag (fsub a b) ≤ 0x3F800000 := fmag_fsub_le a b _ ha hb (by decide) (by rwa [hone])
  have hunits := magUnits_le_magUnits (by decide) hdiff
  have hfin : isFinite (fsub a b) = true := (isFinite_iff _).mpr (hdiff.trans_lt (by decide))
  refine inRange_half_of_fmag_le _ (fmag_fmul_le _ _ _ hfin hhalf.1 (by decide) ?_)
  rw [hhalf.2.1, hhalf.2.2, oneUnits]
  omega

/-- Half of x − 1, with x in [0, 2]. -/
theorem inRange_half_fsub_fone (x : F32) (hfin : isFinite x = true) (hlo : (magUnits 0 : Int) ≤ units x)
    (hhi : units x ≤ magUnits 0x40000000) : inRange fminusHalf fhalf (fmul (fsub x fone) fhalf) = true := by
  have hzero : (magUnits 0 : Int) = 0 := by decide
  have htwo : (magUnits 0x40000000 : Int) = 2 * 2 ^ 149 := by decide
  have hone : units fone = 2 ^ 149 := by decide
  exact inRange_half_fsub _ _ hfin (by decide) (by omega)

/-- Half of 3 − x, with x in [2, 4]. -/
theorem inRange_half_fthree_fsub (x : F32) (hfin : isFinite x = true) (hlo : (magUnits 0x40000000 : Int) ≤ units x)
    (hhi : units x ≤ magUnits 0x40800000) : inRange fminusHalf fhalf (fmul (fsub fthree x) fhalf) = true := by
  have htwo : (magUnits 0x40000000 : Int) = 2 * 2 ^ 149 := by decide
  have hfour : (magUnits 0x40800000 : Int) = 4 * 2 ^ 149 := by decide
  have hthree : units fthree = 3 * 2 ^ 149 := by decide
  exact inRange_half_fsub _ _ (by decide) hfin (by omega)

/-- Doubled, a phase in [0, 1) is in [0, 2]. -/
theorem inRange_oscSaw (p : F32) (h : InUnit p) : inRange fminusHalf fhalf (oscSaw p) = true := by
  obtain ⟨hfin, hlo, hhi⟩ := fmul_gain_between ftwo p 0 0x3F800000 0 0x40000000 (Nat.zero_le _) h.le (by decide)
  exact inRange_half_fsub_fone _ hfin hlo hhi

/-- Four times a phase below 0.5 is in [0, 2], and from 0.5 on in [2, 4]. -/
theorem inRange_oscTri (p : F32) (h : InUnit p) : inRange fminusHalf fhalf (oscTri p) = true := by
  simp only [oscTri, flt_of_nonNegative p fhalf (h.le.trans (by decide)) (by decide), decide_eq_true_eq]
  split_ifs with hp
  · obtain ⟨hfin, hlo, hhi⟩ := fmul_gain_between ffour p 0 0x3F000000 0 0x40000000 (Nat.zero_le _) hp.le (by decide)
    exact inRange_half_fsub_fone _ hfin hlo hhi
  · obtain ⟨hfin, hlo, hhi⟩ := fmul_gain_between ffour p 0x3F000000 0x3F800000 0x40000000 0x40800000
      (Nat.le_of_not_lt hp) h.le (by decide)
    exact inRange_half_fthree_fsub _ hfin hlo hhi

/-- A sample is in [−0.5, 0.5], from a phase in [0, 1) whatever the waveform. -/
theorem inRange_oscValue (c : Cfg) (wave : Wave) (p : F32) (d : Nat) (h : InUnit p) :
    inRange fminusHalf fhalf (oscValue c wave p d) = true := by
  cases wave with
  | triangle => exact inRange_oscTri p h
  | saw => exact inRange_oscSaw p h
  | noise => exact inRange_noiseDraw c d

/-! ## The frames of a generation (R187) -/

/-- The sample of frame i: the waveform at the phase after i advances and at the i-th draw, in both lanes. -/
theorem oscGen_getElem? (c : Cfg) (n : Nat) (wave : Wave) (f p : F32) (d i : Nat) (h : i < n) :
    (oscGen c n wave f p d).frames[i]? =
      some { left := oscValue c wave (oscGen c i wave f p d).phase (d + i * drawsPerFrame wave),
             right := oscValue c wave (oscGen c i wave f p d).phase (d + i * drawsPerFrame wave) } := by
  rw [oscGen, oscGen, oscFrames_phase]
  exact oscFrames_getElem? c wave (oscInc c f) n p d i h

/-- The phase a generation leaves: one advance a frame (R188). -/
theorem oscGen_phase (c : Cfg) (n : Nat) (wave : Wave) (f p : F32) (d : Nat) :
    (oscGen c n wave f p d).phase = (fun q => wrap (fadd q (fdiv f (sampleRate c))))^[n] p :=
  oscFrames_phase c wave (oscInc c f) n p d

/-- Every frame of a generation holds, in both lanes, a sample taken at a phase in [0, 1). -/
theorem exists_oscValue_of_mem_oscGen (c : Cfg) (n : Nat) (wave : Wave) (f p : F32) (d : Nat) (h : InUnit p) (fr : Frame)
    (hfr : fr ∈ (oscGen c n wave f p d).frames) :
    ∃ q k, InUnit q ∧ fr = { left := oscValue c wave q k, right := oscValue c wave q k } := by
  obtain ⟨i, hi⟩ := List.mem_iff_getElem?.mp hfr
  have hlt : i < n := by
    obtain ⟨hlen, -⟩ := List.getElem?_eq_some_iff.mp hi
    rwa [oscGen, oscFrames_length] at hlen
  rw [oscGen_getElem? c n wave f p d i hlt, Option.some.injEq] at hi
  exact ⟨_, _, inUnit_oscGen_phase c i wave f p d h, hi.symm⟩

/-- Settles O22: every phase a generation meets is in [0, 1), and from there each waveform's formula stays in range. -/
theorem generatedSamplesStayInRange : Obligations.GeneratedSamplesStayInRange := by
  intro c n wave f p d hp fr hfr
  obtain ⟨q, k, hq, rfl⟩ := exists_oscValue_of_mem_oscGen c n wave f p d hp fr hfr
  have hrange := inRange_oscValue c wave q k hq
  rw [inRange, Bool.and_eq_true] at hrange
  obtain ⟨hlo, hhi⟩ := hrange
  obtain ⟨-, hnan, -⟩ := (fle_iff _ _).mp hlo
  exact ⟨hlo, hhi, hnan, rfl⟩

end Sys2Proof.Machine
end

section
/-! SUPPORT. The oscillator stages of a PROCESS in index order: phases, SCRATCH and noise draws (40_oscillator.md R184, R188,
43_engine.md R320, R324). -/

namespace Sys2Proof.Machine

/-! ## One oscillator's stage -/

/-- An enabled NOISE oscillator: the ones that draw. -/
def Controls.drawsNoise (r : Controls) (k : OscId) : Bool := (r.osc k).en && decide ((r.osc k).wave = .noise)

theorem drawsPerFrame_eq (wave : Wave) : drawsPerFrame wave = if wave = .noise then 1 else 0 := by cases wave <;> rfl

/-- One draw a frame for an enabled NOISE oscillator, none for any other. -/
theorem stageOscillator_noiseDraws (c : Cfg) (n : Nat) (k : OscId) (s : State) :
    (stageOscillator c n k s).noiseDraws = s.noiseDraws + n * if s.snap.drawsNoise k then 1 else 0 := by
  cases hen : (s.snap.osc k).en
  · rw [stageOscillator_disabled c n k s hen]
    simp [Controls.drawsNoise, hen]
  · rw [stageOscillator_enabled c n k s hen]
    simp [Controls.drawsNoise, hen, oscillatorRun, oscGen, oscFrames_draws, drawsPerFrame_eq]

/-- A stage leaves the phase and the SCRATCH of every other oscillator. -/
theorem stageOscillator_of_ne (c : Cfg) (n : Nat) (k j : OscId) (s : State) (h : j ≠ k) :
    (stageOscillator c n k s).phases.get j = s.phases.get j ∧ (stageOscillator c n k s).scratch.get j = s.scratch.get j := by
  cases hen : (s.snap.osc k).en
  · rw [stageOscillator_disabled c n k s hen]
    exact ⟨rfl, rfl⟩
  · rw [stageOscillator_enabled c n k s hen]
    exact ⟨Phases.get_set_other _ _ _ _ h, Scratch.get_set_other _ _ _ _ h⟩

/-- The stage of an enabled oscillator leaves its generation's phase and frames. -/
theorem stageOscillator_get_own (c : Cfg) (n : Nat) (k : OscId) (s : State) (h : (s.snap.osc k).en = true) :
    (stageOscillator c n k s).phases.get k = (oscillatorRun c n k s).phase ∧
    (stageOscillator c n k s).scratch.get k = (oscillatorRun c n k s).frames := by
  rw [stageOscillator_enabled c n k s h]
  exact ⟨Phases.get_set_same _ _ _, Scratch.get_set_same _ _ _⟩

/-! ## Several oscillators in order -/

/-- The stages of the oscillators listed, in order. -/
def oscillatorStages (c : Cfg) (n : Nat) : List OscId → State → State
  | [], s => s
  | k :: ks, s => oscillatorStages c n ks (stageOscillator c n k s)

theorem oscillatorStages_noiseDraws (c : Cfg) (n : Nat) (ks : List OscId) (s : State) :
    (oscillatorStages c n ks s).noiseDraws = s.noiseDraws + n * ks.countP s.snap.drawsNoise := by
  induction ks generalizing s with
  | nil => rfl
  | cons k ks ih =>
    rw [oscillatorStages, ih, stageOscillator_noiseDraws, stageOscillator_snap, List.countP_cons,
      Nat.add_comm (List.countP _ _), Nat.mul_add, Nat.add_assoc]

/-- Oscillators that are not listed keep their phase and SCRATCH. -/
theorem oscillatorStages_of_not_mem (c : Cfg) (n : Nat) (k : OscId) (ks : List OscId) (s : State) (h : k ∉ ks) :
    (oscillatorStages c n ks s).phases.get k = s.phases.get k ∧
    (oscillatorStages c n ks s).scratch.get k = s.scratch.get k := by
  induction ks generalizing s with
  | nil => exact ⟨rfl, rfl⟩
  | cons j ks ih =>
    obtain ⟨hj, hks⟩ := not_or.mp (mt List.mem_cons.mpr h)
    obtain ⟨hphase, hscratch⟩ := stageOscillator_of_ne c n j k s hj
    rw [oscillatorStages, ← hphase, ← hscratch]
    exact ih _ hks

/-- The generation of an enabled oscillator runs from its own phase, its draws following those of the oscillators listed before
it. -/
theorem oscillatorStages_of_mem (c : Cfg) (n : Nat) (k : OscId) (ks : List OscId) (s : State) (hk : k ∈ ks) (hnd : ks.Nodup)
    (hen : (s.snap.osc k).en = true) :
    let run := oscGen c n (s.snap.osc k).wave (fadd s.snap.noteFreq (s.snap.osc k).offset) (s.phases.get k)
      (s.noiseDraws + n * (ks.takeWhile (fun j => decide (j ≠ k))).countP s.snap.drawsNoise)
    (oscillatorStages c n ks s).phases.get k = run.phase ∧ (oscillatorStages c n ks s).scratch.get k = run.frames := by
  induction ks generalizing s with
  | nil => cases hk
  | cons j ks ih =>
    obtain ⟨hj, hnd⟩ := List.nodup_cons.mp hnd
    rcases eq_or_ne j k with rfl | hne
    · obtain ⟨hphase, hscratch⟩ := oscillatorStages_of_not_mem c n j ks (stageOscillator c n j s) hj
      obtain ⟨hownPhase, hownScratch⟩ := stageOscillator_get_own c n j s hen
      rw [oscillatorStages, hphase, hscratch, hownPhase, hownScratch]
      simp [oscillatorRun]
    · obtain ⟨hphase, -⟩ := stageOscillator_of_ne c n j k s hne.symm
      have hrest := ih (stageOscillator c n j s) ((List.mem_cons.mp hk).resolve_left hne.symm) hnd (by simpa using hen)
      rw [stageOscillator_snap, stageOscillator_noiseDraws, hphase, Nat.add_assoc, ← Nat.mul_add] at hrest
      rw [List.takeWhile_cons_of_pos (by simpa using hne), List.countP_cons, Nat.add_comm (List.countP _ _)]
      exact hrest

/-! ## A whole PROCESS -/

/-- The oscillators in index order (R320). -/
def allOscillators : List OscId := [.osc0, .osc1, .osc2]

theorem mem_allOscillators (k : OscId) : k ∈ allOscillators := by cases k <;> decide

/-- The later stages leave the phases, SCRATCH and the draws as the oscillator stages leave them. -/
theorem processWhole_oscillatorStages (c : Cfg) (n : Nat) (s : State) :
    (processWhole c n s).phases = (oscillatorStages c n allOscillators (stageClearMix n (acceptProcess n s))).phases ∧
    (processWhole c n s).scratch = (oscillatorStages c n allOscillators (stageClearMix n (acceptProcess n s))).scratch ∧
    (processWhole c n s).noiseDraws =
      (oscillatorStages c n allOscillators (stageClearMix n (acceptProcess n s))).noiseDraws := by
  simp [processWhole, oscillatorStages, allOscillators]

/-- What a PROCESS leaves of an enabled oscillator: its generation, at the controls it was accepted with. -/
theorem processWhole_of_enabled (c : Cfg) (n : Nat) (k : OscId) (s : State) (h : (s.ctl.osc k).en = true) :
    let run := oscGen c n (s.ctl.osc k).wave (fadd s.ctl.noteFreq (s.ctl.osc k).offset) (s.phases.get k)
      (s.noiseDraws + n * (allOscillators.takeWhile (fun j => decide (j ≠ k))).countP s.ctl.drawsNoise)
    (processWhole c n s).phases.get k = run.phase ∧ (processWhole c n s).scratch.get k = run.frames := by
  obtain ⟨hphases, hscratch, -⟩ := processWhole_oscillatorStages c n s
  rw [hphases, hscratch]
  exact oscillatorStages_of_mem c n k allOscillators (stageClearMix n (acceptProcess n s)) (mem_allOscillators k) (by decide) h

theorem processWhole_noiseDraws (c : Cfg) (n : Nat) (s : State) :
    (processWhole c n s).noiseDraws = s.noiseDraws + n * allOscillators.countP s.ctl.drawsNoise := by
  obtain ⟨-, -, hdraws⟩ := processWhole_oscillatorStages c n s
  rw [hdraws, oscillatorStages_noiseDraws]
  rfl

theorem exec_process_of_idle (n : Nat) (s : State) (h : s.busy = false) :
    exec (.process n) s = .next (processWhole Config.machine n s) := by rw [exec_process, awaitIdle_idle _ s h]

/-- Settles O21: the frame loop advances once a frame, and a PROCESS runs it for the enabled oscillators only. -/
theorem phaseIsTheIteratedAdvance : Obligations.PhaseIsTheIteratedAdvance := by
  refine ⟨oscGen_phase, fun n s hb => ⟨_, exec_process_of_idle n s hb, fun k => ⟨fun hen => ?_, fun hdis => ?_⟩⟩⟩
  · exact (processWhole_of_enabled _ n k s hen).1.trans (oscGen_phase _ _ _ _ _ _)
  · exact (processWhole_of_disabled _ n k s hdis).1

/-- Settles O23: a NOISE frame is one draw, and the draws of the oscillator stages add up. -/
theorem noiseMakesOneDrawPerFrame : Obligations.NoiseMakesOneDrawPerFrame := by
  refine ⟨fun c n i f p d h => ?_, fun n s hb => ⟨_, exec_process_of_idle n s hb, processWhole_noiseDraws _ n s⟩⟩
  rw [oscGen_getElem? c n .noise f p d i h, drawsPerFrame, Nat.mul_one]
  rfl

/-- Settles O59: a frame's sample is its waveform's formula at the phase before the advance, and a PROCESS leaves each enabled
oscillator's generation in its SCRATCH. -/
theorem scratchHoldsTheWaveformSamples : Obligations.ScratchHoldsTheWaveformSamples := by
  refine ⟨fun c n i f p d h => ?_, fun n s hb => ⟨_, exec_process_of_idle n s hb, fun k hen => ?_⟩⟩
  · have hframe (wave : Wave) := oscGen_getElem? c n wave f p d i h
    simp only [oscGen_phase] at hframe
    exact ⟨hframe .triangle, hframe .saw⟩
  · exact (processWhole_of_enabled _ n k s hen).2

end Sys2Proof.Machine
end

section
/-! SUPPORT. The envelope: the rows of its transition table, its monotone value, its rates and its frame loop (41_envelope.md). -/

namespace Sys2Proof.Machine

/-! ## Values in [+0.0, +inf] in order -/

/-- Values in [+0.0, +inf] are ordered as their patterns. -/
theorem fle_of_nonNegative (x y : F32) (hx : NonNegative x) (hy : NonNegative y) : fle x y = decide (x.toNat ≤ y.toNat) := by
  obtain ⟨hsx, hnx⟩ := (nonNegative_iff x).mp hx
  obtain ⟨hsy, hny⟩ := (nonNegative_iff y).mp hy
  simp [fle, fkey, hsx, hsy, hnx, hny, toNat_eq_fmag]

theorem not_fle_of_flt {x y : F32} (h : flt x y = true) : fle y x = false := by
  obtain ⟨-, -, hlt⟩ := (flt_iff x y).mp h
  rw [Bool.eq_false_iff, ne_eq, fle_iff]
  rintro ⟨-, -, hle⟩
  omega

/-- Adding a value in [+0.0, +inf] to a finite one that is not negative does not go below it. -/
theorem le_fadd (x y : F32) (hx : x.toNat < infMag) (hy : NonNegative y) : x.toNat ≤ (fadd x y).toNat := by
  obtain ⟨hfx, hsx, hmx⟩ := finite_of_toNat_lt x hx
  obtain ⟨hsy, hny⟩ := (nonNegative_iff y).mp hy
  have hux : units x = magUnits x.toNat := by simp [units, hsx, hmx]
  have huy : 0 ≤ units y := by simp [units, hsy]
  simp only [fadd, isNaN_of_isFinite x hfx, isInf_of_isFinite x hfx, hny, hsx, Bool.or_self, Bool.false_and,
    Bool.false_eq_true, if_false]
  split_ifs with hinf hzero
  · rw [isInf, decide_eq_true_eq, ← toNat_eq_fmag y hsy] at hinf
    omega
  · have hx0 : x.toNat = 0 := (magUnits_eq_zero_iff _ hx.le).mp (by omega)
    exact hx0.le.trans (Nat.zero_le _)
  · rw [roundUnits, decide_eq_false (by omega), fpack_toNat _ _ ((roundMag_le_infMag _ _).trans_lt (by decide))]
    exact (le_roundMag_of_le _ _ _ (by decide) hx.le (by omega)).trans (Nat.le_add_right _ _)

/-! ## ENV_STEP, a row of R221 at a time -/

theorem envStep_of_idle {e : Envelope} (hs : e.state = .idle) : envStep e = { e with value := posZero } := by
  rw [envStep, hs]

theorem envStep_of_attack {e : Envelope} (hs : e.state = .attack) : envStep e = envStepAttack e := by
  rw [envStep, hs]

theorem envStep_of_sustain {e : Envelope} (hs : e.state = .sustain) : envStep e = { e with value := sustainLevel } := by
  rw [envStep, hs]

theorem envStep_of_release {e : Envelope} (hs : e.state = .release) : envStep e = envStepRelease e := by
  rw [envStep, hs]

theorem envStepAttack_reached {e : Envelope} (hv : fle fone (fadd e.value e.attackRate) = true) :
    envStepAttack e = { e with value := fone, state := .sustain } := by simp [envStepAttack, hv]

theorem envStepAttack_below {e : Envelope} (hv : fle fone (fadd e.value e.attackRate) = false) :
    envStepAttack e = { e with value := fadd e.value e.attackRate } := by simp [envStepAttack, hv]

theorem envStepRelease_reached {e : Envelope} (hv : fle (fsub e.value e.releaseRate) posZero = true) :
    envStepRelease e = { e with value := posZero, state := .idle } := by simp [envStepRelease, hv]

theorem envStepRelease_above {e : Envelope} (hv : fle (fsub e.value e.releaseRate) posZero = false) :
    envStepRelease e = { e with value := fsub e.value e.releaseRate } := by simp [envStepRelease, hv]

/-! ## The commands' rows -/

theorem exec_noteOn_of_idle (n : Int) (s : State) (h : s.busy = false) :
    exec (.noteOn n) s = .next (noteOnEffect Config.machine n s) := by rw [exec_noteOn, awaitIdle_idle _ s h]

theorem exec_noteOff_of_idle (s : State) (h : s.busy = false) : exec .noteOff s = .next (noteOffEffect s) := by
  rw [exec_noteOff, awaitIdle_idle _ s h]

@[simp] theorem noteOnEffect_env (c : Cfg) (n : Int) (s : State) :
    (noteOnEffect c n s).env = { s.env with state := .attack } := rfl

@[simp] theorem noteOffEffect_env (s : State) : (noteOffEffect s).env = envNoteOff s.env := rfl

theorem envNoteOff_of_idle {e : Envelope} (hs : e.state = .idle) : envNoteOff e = e := by
  rw [envNoteOff, if_pos hs, ← hs]

theorem envNoteOff_of_not_idle {e : Envelope} (hs : e.state ≠ .idle) : envNoteOff e = { e with state := .release } := by
  rw [envNoteOff, if_neg hs]

/-- Settles O18: a sum below 1.0 is not at least 1.0, and a difference above +0.0 is not at most +0.0, so each row's condition
picks its branch. -/
theorem envelopeFollowsItsTransitionTable : Obligations.EnvelopeFollowsItsTransitionTable := by
  refine ⟨fun n s hb => ⟨_, exec_noteOn_of_idle n s hb, noteOnEffect_env _ n s⟩,
    fun s hb hs => ⟨_, exec_noteOff_of_idle s hb, envNoteOff_of_idle hs⟩,
    fun s hb hs => ⟨_, exec_noteOff_of_idle s hb, envNoteOff_of_not_idle hs⟩,
    fun e hs => envStep_of_idle hs, fun e hs hv => ?_, fun e hs hv => ?_, fun e hs => envStep_of_sustain hs,
    fun e hs hv => ?_, fun e hs hv => ?_⟩
  · rw [envStep_of_attack hs, envStepAttack_below (not_fle_of_flt hv)]
  · rw [envStep_of_attack hs, envStepAttack_reached hv]
  · rw [envStep_of_release hs, envStepRelease_above (not_fle_of_flt hv)]
  · rw [envStep_of_release hs, envStepRelease_reached hv]

/-! ## The value's direction (R232) -/

theorem EnvelopeOk.value_nonNegative {e : Envelope} (h : EnvelopeOk e) : NonNegative e.value := h.value.trans (by decide)

/-- In ATTACK the pattern of the value does not go down: it becomes 1.0, or a sum with a rate that is not negative. -/
theorem value_le_envStep_of_attack (e : Envelope) (h : EnvelopeOk e) (hs : e.state = .attack) :
    e.value.toNat ≤ (envStep e).value.toNat := by
  rw [envStep_of_attack hs]
  cases hv : fle fone (fadd e.value e.attackRate)
  · rw [envStepAttack_below hv]
    exact le_fadd _ _ (h.value.trans_lt (by decide)) h.attackRate
  · rw [envStepAttack_reached hv]
    exact h.value

/-- In RELEASE the pattern of the value does not go up: it becomes +0.0, or a positive difference with a rate that is not
negative. -/
theorem envStep_value_le_of_release (e : Envelope) (h : EnvelopeOk e) (hs : e.state = .release) :
    (envStep e).value.toNat ≤ e.value.toNat := by
  rw [envStep_of_release hs]
  cases hv : fle (fsub e.value e.releaseRate) posZero
  · rw [envStepRelease_above hv]
    exact fsub_le_of_positive _ _ (h.value.trans_lt (by decide)) h.releaseRate hv
  · rw [envStepRelease_reached hv]
    exact Nat.zero_le _

/-- Settles O19: a frame step and both commands keep the envelope's part of R78, and in its range the order of the values is that
of their patterns. -/
theorem envelopeValueStaysInRangeAndMonotone : Obligations.EnvelopeValueStaysInRangeAndMonotone := by
  intro e h
  have hstep := envelopeOk_envStep e h
  have hnew := hstep.value_nonNegative
  refine ⟨hstep, envelopeOk_envNoteOn e h, envelopeOk_envNoteOff e h, ((nonNegative_iff _).mp hnew).2, fun hs => ?_,
    fun hs => ?_, hstep.idle⟩
  · rw [fle_of_nonNegative _ _ h.value_nonNegative hnew, decide_eq_true_eq]
    exact value_le_envStep_of_attack e h hs
  · rw [fle_of_nonNegative _ _ hnew h.value_nonNegative, decide_eq_true_eq]
    exact envStep_value_le_of_release e h hs

/-! ## The rates (R222) -/

theorem envRate_of_positive (c : Cfg) {t : F32} (h : flt posZero t = true) :
    envRate c t = fdiv fone (fmul t (sampleRate c)) := by rw [envRate, if_pos h]

theorem envRate_of_not_positive (c : Cfg) {t : F32} (h : flt posZero t = false) : envRate c t = instantRate := by
  rw [envRate, h, if_neg Bool.false_ne_true]

/-- +inf times a positive value is +inf. -/
theorem fmul_posInf (y : F32) (hy : NonNegative y) (hy0 : fmag y ≠ 0) : fmul 0x7F800000#32 y = 0x7F800000#32 := by
  obtain ⟨hsy, hny⟩ := (nonNegative_iff y).mp hy
  have hinf : isNaN 0x7F800000#32 = false ∧ isInf 0x7F800000#32 = true ∧ fmag 0x7F800000#32 ≠ 0 ∧
      fsign 0x7F800000#32 = false ∧ fpack false infMag = 0x7F800000#32 := by decide
  obtain ⟨hnan, hisInf, hmag, hsign, hpack⟩ := hinf
  simp only [fmul, hnan, hny, hisInf, hmag, hy0, hsign, hsy, Bool.or_self, Bool.true_or, bne_self_eq_false,
    Bool.false_eq_true, decide_false, if_false, if_true, hpack]

/-- An infinite time constant has the rate +0.0: its product with the sample rate is +inf. -/
theorem envRate_posInf (c : Cfg) : envRate c 0x7F800000#32 = posZero := by
  obtain ⟨hr, hr0⟩ := positive_sampleRate c
  rw [envRate_of_positive c (by decide), fmul_posInf _ hr hr0]
  decide

/-- Settles O20: the product of a positive time and the sample rate is positive, so its reciprocal is in [+0.0, +inf]. -/
theorem rateIsNeverNegativeNorNaN : Obligations.RateIsNeverNegativeNorNaN := fun c t =>
  ⟨nonNegative_envRate c t, envRate_of_positive c, envRate_of_not_positive c, envRate_posInf c⟩

/-! ## The frame loop of the envelope stage (R223, R230, R231) -/

theorem stageEnvelope_env (c : Cfg) (s : State) :
    (stageEnvelope c s).env = envStep^[s.mix.length] (envSetRates c s.snap s.env) := envApply_env _ _

theorem stageEnvelope_getElem? (c : Cfg) (s : State) (i : Nat) : (stageEnvelope c s).mix[i]? =
    s.mix[i]?.map (scaleFrame (envStep^[i + 1] (envSetRates c s.snap s.env)).value) := envApply_getElem? _ _ _

/-- A PROCESS steps the envelope once for each of its frames: the oscillator stages keep MIX at n frames and leave the envelope
alone, and no later stage writes it. -/
theorem processWhole_env (c : Cfg) (n : Nat) (s : State) :
    (processWhole c n s).env = envStep^[n] (envSetRates c s.ctl s.env) := by
  have hmix : (oscillatorStages c n allOscillators (stageClearMix n (acceptProcess n s))).mix.length = n :=
    stageOscillator_mix_length c .osc2 _ n <| stageOscillator_mix_length c .osc1 _ n <|
      stageOscillator_mix_length c .osc0 _ n (by simp)
  simp only [oscillatorStages, allOscillators] at hmix
  simp [processWhole, stageEnvelope_env, hmix]

/-- Settles O57: the envelope stage steps once for each frame of MIX, and a PROCESS n has n of them there. -/
theorem envelopeStepsOncePerFrame : Obligations.EnvelopeStepsOncePerFrame := by
  refine ⟨fun n s hb => ⟨_, exec_process_of_idle n s hb, processWhole_env _ n s⟩,
    fun c s => ⟨stageEnvelope_env c s, stageEnvelope_mix_length c s, fun i f hf => ?_⟩⟩
  rw [stageEnvelope_getElem?, hf]
  rfl

end Sys2Proof.Machine
end

section
/-! SUPPORT. The two channels are equal from the oscillators to OUTBUF (40_oscillator.md R187,
42_filter.md R292, 43_engine.md R333). -/

namespace Sys2Proof.Machine

/-! ## Frames with equal lanes -/

theorem lanesEqual_addFrame {f g : Frame} (hf : LanesEqual f) (hg : LanesEqual g) : LanesEqual (addFrame f g) := by
  simp only [LanesEqual, addFrame]
  rw [hf, hg]

theorem lanesEqual_scaleFrame (g : F32) {f : Frame} (hf : LanesEqual f) : LanesEqual (scaleFrame g f) := by
  simp only [LanesEqual, scaleFrame]
  rw [hf]

/-- A generation puts each value in both lanes (40_oscillator.md R187). -/
theorem lanesEqual_oscFrames (c : Cfg) (wave : Wave) (inc : F32) (n : Nat) (p : F32) (d : Nat) :
    ∀ f ∈ (oscFrames c wave inc n p d).frames, LanesEqual f := by
  induction n generalizing p d with
  | zero => exact List.forall_mem_nil _
  | succ n ih => exact List.forall_mem_cons.mpr ⟨rfl, ih _ _⟩

theorem lanesEqual_zipWith_addFrame (fs gs : List Frame) (hf : ∀ f ∈ fs, LanesEqual f) (hg : ∀ g ∈ gs, LanesEqual g) :
    ∀ x ∈ List.zipWith addFrame fs gs, LanesEqual x := by
  induction fs generalizing gs with
  | nil => exact List.forall_mem_nil _
  | cons f fs ih =>
    cases gs with
    | nil => exact List.forall_mem_nil _
    | cons g gs =>
      rw [List.forall_mem_cons] at hf hg
      exact List.forall_mem_cons.mpr ⟨lanesEqual_addFrame hf.1 hg.1, ih gs hf.2 hg.2⟩

/-- The envelope multiplies both lanes of a frame by one gain (41_envelope.md R231). -/
theorem lanesEqual_envApply (fs : List Frame) (e : Envelope) (h : ∀ f ∈ fs, LanesEqual f) :
    ∀ f ∈ (envApply e fs).1, LanesEqual f := by
  induction fs generalizing e with
  | nil => exact List.forall_mem_nil _
  | cons f fs ih =>
    rw [List.forall_mem_cons] at h
    exact List.forall_mem_cons.mpr ⟨lanesEqual_scaleFrame _ h.1, ih _ h.2⟩

/-! ## The filter -/

@[simp] theorem filtRecompute_left (c : Cfg) (res ce : F32) (u : FilterUnit) : (filtRecompute c res ce u).left = u.left := by
  unfold filtRecompute
  split <;> rfl

@[simp] theorem filtRecompute_right (c : Cfg) (res ce : F32) (u : FilterUnit) :
    (filtRecompute c res ce u).right = u.right := by
  unfold filtRecompute
  split <;> rfl

/-- One frame with equal lanes through equal histories: the coefficients are shared (42_filter.md R280). -/
theorem filterSample_channels_equal (u : FilterUnit) (f : Frame) (hu : u.left = u.right) (hf : LanesEqual f) :
    LanesEqual (filterSample u f).1 ∧ (filterSample u f).2.left = (filterSample u f).2.right := by
  simp only [LanesEqual, filterSample]
  rw [hu, hf]
  exact ⟨rfl, rfl⟩

theorem filterFrame_channels_equal (c : Cfg) (snap : Controls) (linc : F32) (u : FilterUnit) (f : Frame)
    (hu : u.left = u.right) (hf : LanesEqual f) :
    LanesEqual (filterFrame c snap linc u f).1 ∧
      (filterFrame c snap linc u f).2.left = (filterFrame c snap linc u f).2.right :=
  filterSample_channels_equal _ f (by simpa using hu) hf

theorem filterFrames_channels_equal (c : Cfg) (snap : Controls) (linc : F32) (fs : List Frame) (u : FilterUnit)
    (hu : u.left = u.right) (hfs : ∀ f ∈ fs, LanesEqual f) :
    (∀ f ∈ (filterFrames c snap linc u fs).1, LanesEqual f) ∧
      (filterFrames c snap linc u fs).2.left = (filterFrames c snap linc u fs).2.right := by
  induction fs generalizing u with
  | nil => exact ⟨List.forall_mem_nil _, hu⟩
  | cons f fs ih =>
    rw [List.forall_mem_cons] at hfs
    obtain ⟨hframe, hhist⟩ := filterFrame_channels_equal c snap linc u f hu hfs.1
    obtain ⟨hrest, hlast⟩ := ih _ hhist hfs.2
    exact ⟨List.forall_mem_cons.mpr ⟨hframe, hrest⟩, hlast⟩

/-! ## The stages -/

/-- The clear makes equal lanes whatever MIX held. -/
theorem channelsEqual_stageClearMix (n : Nat) (s : State) (h : s.filt.left = s.filt.right) :
    ChannelsEqual (stageClearMix n s) :=
  ⟨h, fun f hf => by rw [List.eq_of_mem_replicate hf]; rfl⟩

theorem channelsEqual_stageOscillator (c : Cfg) (n : Nat) (k : OscId) (s : State) (h : ChannelsEqual s) :
    ChannelsEqual (stageOscillator c n k s) := by
  cases hen : (s.snap.osc k).en
  · rwa [stageOscillator_disabled c n k s hen]
  · rw [stageOscillator_enabled c n k s hen]
    exact ⟨h.history, lanesEqual_zipWith_addFrame _ _ h.mix (lanesEqual_oscFrames _ _ _ _ _ _)⟩

theorem channelsEqual_stageEnvelope (c : Cfg) (s : State) (h : ChannelsEqual s) : ChannelsEqual (stageEnvelope c s) :=
  ⟨h.history, lanesEqual_envApply _ _ h.mix⟩

theorem channelsEqual_stageFilter (c : Cfg) (s : State) (h : ChannelsEqual s) : ChannelsEqual (stageFilter c s) := by
  obtain ⟨hmix, hhist⟩ := filterFrames_channels_equal c s.snap (lfoInc c s.snap) s.mix s.filt h.history h.mix
  exact ⟨hhist, hmix⟩

theorem channelsEqual_stageWork (c : Cfg) (p : Progress) (s : State) (h : ChannelsEqual s) :
    ChannelsEqual (stageWork c p s) := by
  obtain ⟨n, st⟩ := p
  cases st with
  | clearMix => exact channelsEqual_stageClearMix n s h.history
  | oscillator k => exact channelsEqual_stageOscillator c n k s h
  | envelope => exact channelsEqual_stageEnvelope c s h
  | filter => exact channelsEqual_stageFilter c s h
  | scale => exact ⟨h.history, h.mix⟩
  | complete => exact ⟨h.history, h.mix⟩

theorem channelsEqual_runStage (c : Cfg) (s : State) (h : ChannelsEqual s) : ChannelsEqual (runStage c s) := by
  unfold runStage
  split
  · exact h
  · rename_i p _
    have hwork := channelsEqual_stageWork c p s h
    exact ⟨hwork.history, hwork.mix⟩

theorem keptByParts_channelsEqual : KeptByParts ChannelsEqual where
  host _ _ h hs := ⟨by rw [h.filt]; exact hs.history, by rw [h.mix]; exact hs.mix⟩
  stage := channelsEqual_runStage _
  accept _ _ _ hs := ⟨hs.history, hs.mix⟩
  noteOn _ _ hs := ⟨hs.history, hs.mix⟩
  noteOff _ hs := ⟨hs.history, hs.mix⟩
  reset _ := ⟨rfl, List.forall_mem_nil _⟩

/-- Settles O38: every stage treats the two lanes alike, and nothing else but reset writes MIX or the histories. -/
theorem everyStepKeepsTheChannelsEqual : Obligations.EveryStepKeepsTheChannelsEqual := keptByParts_channelsEqual.step

/-! ## A PROCESS up to its filter stage -/

/-- The state in which the filter stage of a PROCESS begins (43_engine.md R320, stages 0 to 4). -/
def filterEntry (c : Cfg) (n : Nat) (s : State) : State :=
  stageEnvelope c (oscillatorStages c n allOscillators (stageClearMix n (acceptProcess n s)))

theorem processWhole_filterEntry (c : Cfg) (n : Nat) (s : State) :
    processWhole c n s = stageComplete (stageScale (stageFilter c (filterEntry c n s))) := rfl

@[simp] theorem filterEntry_snap (c : Cfg) (n : Nat) (s : State) : (filterEntry c n s).snap = s.ctl := by
  simp [filterEntry, oscillatorStages, allOscillators]

@[simp] theorem filterEntry_filt (c : Cfg) (n : Nat) (s : State) : (filterEntry c n s).filt = s.filt := by
  simp [filterEntry, oscillatorStages, allOscillators]

@[simp] theorem filterEntry_mix_length (c : Cfg) (n : Nat) (s : State) : (filterEntry c n s).mix.length = n :=
  (stageEnvelope_mix_length c _).trans <| stageOscillator_mix_length c .osc2 _ n <|
    stageOscillator_mix_length c .osc1 _ n <| stageOscillator_mix_length c .osc0 _ n (by simp)

/-- Only the histories need to be equal: MIX is cleared first. -/
theorem channelsEqual_filterEntry (c : Cfg) (n : Nat) (s : State) (h : s.filt.left = s.filt.right) :
    ChannelsEqual (filterEntry c n s) :=
  channelsEqual_stageEnvelope c _ <| channelsEqual_stageOscillator c n .osc2 _ <|
    channelsEqual_stageOscillator c n .osc1 _ <| channelsEqual_stageOscillator c n .osc0 _ <|
      channelsEqual_stageClearMix n _ h

/-! ## The words of OUTBUF -/

/-- A word of OUTBUF whose four bytes are the lanes of `w`. -/
theorem outbufWord_of_lanes (c : Cfg) (s : State) (i : Nat) (w : Word)
    (h : ∀ b < 4, readByte s.outbuf (outbufBase + 4 * i + b) = some (byteLane w b)) : outbufWord c s i = w := by
  have hbyte (b : Nat) (hb : b < 4) : outbufByte c s (outbufBase + 4 * i + b) = byteLane w b := by
    rw [outbufByte, h b hb, Option.getD_some]
  rw [outbufWord, hbyte 3 (by decide), hbyte 2 (by decide), hbyte 1 (by decide),
    show outbufByte c s (outbufBase + 4 * i) = byteLane w 0 from hbyte 0 (by decide), byteLane_append]

/-- After scaling, frame i of MIX times VOLUME stands in words 2i and 2i + 1 (43_engine.md R328, R333). -/
theorem outbufWord_stageScale (c : Cfg) (s : State) (i : Nat) (f : Frame) (h : s.mix[i]? = some f) :
    outbufWord c (stageScale s) (2 * i) = fmul f.left s.snap.volume ∧
      outbufWord c (stageScale s) (2 * i + 1) = fmul f.right s.snap.volume := by
  have hout : (outputFrames s)[i]? = some (scaleFrame s.snap.volume f) := by simp [outputFrames, h]
  have hlane (b : Nat) (hb : b < 4) := readByte_writeFrames_lane _ s.outbuf outbufBase i b _ hout hb
  constructor
  · refine outbufWord_of_lanes c _ _ _ fun b hb => ?_
    rw [← Nat.mul_assoc]
    exact (hlane b hb).1
  · refine outbufWord_of_lanes c _ _ _ fun b hb => ?_
    rw [show outbufBase + 4 * (2 * i + 1) + b = outbufBase + 8 * i + 4 + b by omega]
    exact (hlane b hb).2

/-- Scaling makes equal words of a frame with equal lanes. -/
theorem outbufWord_stageScale_eq (c : Cfg) (s : State) (h : ChannelsEqual s) (i : Nat) (hi : i < s.mix.length) :
    outbufWord c (stageScale s) (2 * i) = outbufWord c (stageScale s) (2 * i + 1) := by
  obtain ⟨hleft, hright⟩ := outbufWord_stageScale c s i s.mix[i] (List.getElem?_eq_getElem hi)
  rw [hleft, hright, h.mix _ (List.getElem_mem hi)]

/-- Settles O37: MIX is cleared to equal lanes, every stage up to the filter and the filter itself keep the channels equal, and
the scaling is the same for both lanes. -/
theorem dualMonoIdentity : Obligations.DualMonoIdentity := by
  refine ⟨rfl, fun n s hb hhist => ?_⟩
  have hentry := channelsEqual_filterEntry Config.machine n s hhist
  have hfilt := channelsEqual_stageFilter Config.machine _ hentry
  exact ⟨hentry.mix, _, exec_process_of_idle n s hb, hfilt.history,
    fun i hi => outbufWord_stageScale_eq _ _ hfilt i (by simpa using hi)⟩

end Sys2Proof.Machine
end

section
/-! SUPPORT. The filter: Q, the effective cutoff, the recomputation test, one frame and the frame loop (42_filter.md). -/

namespace Sys2Proof.Machine

/-! ## Q (R270, R271) -/

/-- The clamped resonance is −0.0 or in [+0.0, RES_MAX]. -/
theorem filtRes_range (res : F32) : filtRes res = negZero ∨ (filtRes res).toNat ≤ 0x3F7D70A4 := by
  obtain ⟨hlo, hhi⟩ := clamp_between res posZero resMax (by decide)
  obtain ⟨-, -, hlo⟩ := (fle_iff _ _).mp hlo
  obtain ⟨-, -, hhi⟩ := (fle_iff _ _).mp hhi
  rw [← filtRes, show fkey posZero = 0 by decide] at hlo
  rw [← filtRes, show fkey resMax = 0x3F7D70A4 by decide] at hhi
  have hsign := fsign_eq (filtRes res)
  unfold fkey at hlo hhi
  cases hs : fsign (filtRes res) <;> simp only [hs, if_true, Bool.false_eq_true, if_false] at hlo hhi hsign
  · right
    have := toNat_eq_fmag _ hs
    omega
  · left
    have hmag : (filtRes res).toNat % 2 ^ 31 = 0 := by rw [fmag] at hlo; omega
    have hge : 2 ^ 31 ≤ (filtRes res).toNat := of_decide_eq_true hsign.symm
    have hlt := (filtRes res).isLt
    exact BitVec.eq_of_toNat_eq (show _ = 2 ^ 31 by omega)

/-- 1 − r for r in [+0.0, RES_MAX], rounded, is between 1 − RES_MAX, which is exact, and 1.0. -/
theorem fone_fsub_range (r : F32) (h : r.toNat ≤ 0x3F7D70A4) :
    ∃ m, fsub fone r = fpack false m ∧ 0x3C23D700 ≤ m ∧ m ≤ 0x3F800000 := by
  obtain ⟨hfin, hsign, hmag⟩ := finite_of_toNat_lt r (h.trans_lt (by decide))
  have hunits : units r = magUnits r.toNat := by simp [units, hsign, hmag]
  have hle : magUnits r.toNat ≤ magUnits 0x3F7D70A4 := magUnits_le_magUnits (by decide) h
  have hone : units fone = magUnits 0x3F800000 := by decide
  have hmin : magUnits 0x3C23D700 + magUnits 0x3F7D70A4 = magUnits 0x3F800000 := by decide
  refine ⟨_, fsub_of_same_sign fone r (by decide) hfin (by rw [hsign]; decide) (by omega), ?_, ?_⟩
  · exact le_roundMag_of_le _ _ _ (by decide) (by decide) (by omega)
  · exact roundMag_le_of_le _ _ _ (by decide) (by decide) (by omega)

/-- A larger divisor gives no larger quotient. -/
theorem roundMag_anti_den (num d d' : Nat) (hd : 0 < d) (h : d ≤ d') : roundMag num d' ≤ roundMag num d :=
  roundMag_mono num d' num d (hd.trans_le h) hd (Nat.mul_le_mul_left _ h)

/-- 0.5 over a value between 1 − RES_MAX and 1.0 is between 0.5 and its value at RES_MAX. -/
theorem qNum_fdiv_range (m : Nat) (hlo : 0x3C23D700 ≤ m) (hhi : m ≤ 0x3F800000) :
    ∃ q, fdiv qNum (fpack false m) = fpack false q ∧ 0x3F000000 ≤ q ∧ q ≤ 0x4248000D := by
  have hinf : m < infMag := hhi.trans_lt (by decide)
  have hfin := isFinite_fpack false m hinf
  have hmag := fmag_fpack false m (hinf.trans (by decide))
  have hsign := fsign_fpack false m (hinf.trans (by decide))
  have hlow : magUnits 0x3C23D700 ≤ magUnits m := magUnits_le_magUnits hinf.le hlo
  have hhigh : magUnits m ≤ magUnits 0x3F800000 := magUnits_le_magUnits (by decide) hhi
  have hpos : 0 < magUnits 0x3C23D700 := by decide
  have hq : isNaN qNum = false ∧ isInf qNum = false ∧ fsign qNum = false := by decide
  refine ⟨roundMag (magUnits (fmag qNum) * oneUnits) (magUnits m), ?_, ?_, ?_⟩
  · simp [fdiv, hq, isNaN_of_isFinite, isInf_of_isFinite, hfin, hmag, hsign, show m ≠ 0 by omega]
  · calc 0x3F000000 = roundMag (magUnits (fmag qNum) * oneUnits) (magUnits 0x3F800000) := by decide
      _ ≤ _ := roundMag_anti_den _ _ _ (hpos.trans_le hlow) hhigh
  · calc _ ≤ roundMag (magUnits (fmag qNum) * oneUnits) (magUnits 0x3C23D700) := roundMag_anti_den _ _ _ hpos hlow
      _ = 0x4248000D := by decide

/-- Q of a clamped resonance; at −0.0 it is Q of +0.0. -/
theorem filtQ_range (res : F32) : ∃ q, filtQ (filtRes res) = fpack false q ∧ 0x3F000000 ≤ q ∧ q ≤ 0x4248000D := by
  have hdiff : ∃ m, fsub fone (filtRes res) = fpack false m ∧ 0x3C23D700 ≤ m ∧ m ≤ 0x3F800000 := by
    rcases filtRes_range res with h | h
    · rw [h]
      exact ⟨0x3F800000, by decide⟩
    · exact fone_fsub_range _ h
  obtain ⟨m, hm, hlo, hhi⟩ := hdiff
  rw [filtQ, hm]
  exact qNum_fdiv_range m hlo hhi

/-- Settles O24: 1 − r is between its exact value at RES_MAX and 1.0, and the rounded division keeps that order. -/
theorem qualityStaysBetweenHalfAndFifty : Obligations.QualityStaysBetweenHalfAndFifty := by
  refine ⟨fun res => ⟨rfl, ?_⟩, by decide, by decide, by decide⟩
  obtain ⟨q, hq, hlo, hhi⟩ := filtQ_range res
  have hinf : q ≤ infMag := hhi.trans (by decide)
  rw [hq, show 0x3F000000#32 = fpack false 0x3F000000 by decide, show 0x4248000D#32 = fpack false 0x4248000D by decide,
    fle_fpack_false _ _ (by decide) hinf, fle_fpack_false _ _ hinf (by decide)]
  exact ⟨isFinite_fpack _ _ (hhi.trans_lt (by decide)), decide_eq_true hlo, decide_eq_true hhi⟩

/-! ## The effective cutoff (R276) -/

/-- A value within [−1.0, 1.0] is finite. -/
theorem isFinite_of_inRange_one (x : F32) (h : inRange fminusOne fone x = true) : isFinite x = true := by
  rw [inRange, Bool.and_eq_true, fle_iff, fle_iff, show fkey fminusOne = -0x3F800000 by decide,
    show fkey fone = 0x3F800000 by decide] at h
  obtain ⟨⟨-, -, hlo⟩, -, -, hhi⟩ := h
  rw [isFinite_iff]
  have hinf : infMag = 0x7F800000 := rfl
  unfold fkey at hlo hhi
  split_ifs at hlo hhi <;> omega

/-- A finite value times a zero is a zero. -/
theorem fmag_fmul_of_zero (x y : F32) (hx : isFinite x = true) (hy : isFinite y = true) (h : fmag x = 0 ∨ fmag y = 0) :
    fmag (fmul x y) = 0 := by
  have hzero : magUnits 0 = 0 := by decide
  refine Nat.le_zero.mp (fmag_fmul_le x y 0 hx hy (Nat.zero_le _) ?_)
  rcases h with h | h <;> simp [h, hzero]

theorem isFinite_of_fmag_zero (x : F32) (h : fmag x = 0) : isFinite x = true := by
  rw [isFinite_iff, h]
  decide

/-- The sine at a phase in [0, 1) is finite: its argument is. -/
theorem isFinite_sinCfg_of_inUnit (c : Cfg) (p : F32) (h : InUnit p) : isFinite (sinCfg c (fmul twoPi p)) = true := by
  obtain ⟨hfin, -⟩ := fmul_gain_between twoPi p 0 0x3F800000 0 0x40C90FDB (Nat.zero_le _) h.le (by decide)
  exact isFinite_of_inRange_one _ (inRange_sinCfg c _ hfin)

/-- A pattern is its sign and its magnitude. -/
theorem fpack_fsign_fmag (x : F32) : fpack (fsign x) (fmag x) = x := by
  have hlt := x.isLt
  apply BitVec.eq_of_toNat_eq
  rw [fpack_toNat _ _ (show fmag x < 2 ^ 31 from Nat.mod_lt _ (by decide)), fsign_eq, fmag]
  simp only [decide_eq_true_eq]
  split <;> omega

theorem units_eq_zero_iff (x : F32) (h : isFinite x = true) : units x = 0 ↔ fmag x = 0 := by
  rw [← Int.natAbs_eq_zero, natAbs_units, magUnits_eq_zero_iff _ ((isFinite_iff x).mp h).le]

theorem isFinite_of_not_isNaN_of_not_isInf (x : F32) (hnan : isNaN x = false) (hinf : isInf x = false) :
    isFinite x = true := by
  rw [isNaN, decide_eq_false_iff_not] at hnan
  rw [isInf, decide_eq_false_iff_not] at hinf
  rw [isFinite_iff]
  omega

/-- A finite value that is not zero is what its own units round to. -/
theorem roundUnits_units (x : F32) (h : isFinite x = true) (h0 : fmag x ≠ 0) : roundUnits (units x) 1 = x := by
  rw [roundUnits, ← fsign_eq_decide_units x h h0, natAbs_units, roundMag_magUnits _ ((isFinite_iff x).mp h).le,
    fpack_fsign_fmag]

/-- A zero of either sign added to a value that is no NaN and no zero leaves it. -/
theorem fadd_zero (x z : F32) (hz : fmag z = 0) (hnan : isNaN x = false) (h0 : fmag x ≠ 0) : fadd x z = x := by
  have hfz := isFinite_of_fmag_zero z hz
  have huz : units z = 0 := (units_eq_zero_iff z hfz).mpr hz
  simp only [fadd, hnan, isNaN_of_isFinite z hfz, isInf_of_isFinite z hfz, huz, Int.add_zero, Bool.or_self, Bool.false_and,
    Bool.false_eq_true, if_false]
  cases hinf : isInf x
  · have hfin := isFinite_of_not_isNaN_of_not_isInf x hnan hinf
    rw [if_neg (by decide), if_neg (mt (units_eq_zero_iff x hfin).mp h0), roundUnits_units x hfin h0]
  · rfl

/-- A sum of zeros is a zero. -/
theorem fmag_fadd_of_zeros (x z : F32) (hx : fmag x = 0) (hz : fmag z = 0) : fmag (fadd x z) = 0 := by
  have hfx := isFinite_of_fmag_zero x hx
  have hfz := isFinite_of_fmag_zero z hz
  have hux := (units_eq_zero_iff x hfx).mpr hx
  have huz := (units_eq_zero_iff z hfz).mpr hz
  simp only [fadd, isNaN_of_isFinite, isInf_of_isFinite, hfx, hfz, hux, huz, Int.add_zero, Bool.or_self,
    Bool.false_eq_true, if_false, if_true]
  split <;> decide

/-- A zero is below a positive lower bound. -/
theorem clamp_of_zero (x lo hi : F32) (hx : fmag x = 0) (hlo : flt posZero lo = true) : clamp x lo hi = lo := by
  obtain ⟨-, hnan, hpos⟩ := (flt_iff _ _).mp hlo
  refine clamp_of_flt_lo x lo hi ((flt_iff x lo).mpr ⟨isNaN_of_isFinite x (isFinite_of_fmag_zero x hx), hnan, ?_⟩)
  rwa [show fkey x = fkey posZero by simp [fkey, hx]; decide]

/-- Adding a zero changes at most a NaN's pattern or a zero's sign, and a clamp above zero sees neither. -/
theorem clamp_fadd_zero (x z lo hi : F32) (hz : fmag z = 0) (hlo : flt posZero lo = true) :
    clamp (fadd x z) lo hi = clamp x lo hi := by
  cases hnan : isNaN x
  · by_cases h0 : fmag x = 0
    · rw [clamp_of_zero _ _ _ (fmag_fadd_of_zeros x z h0 hz) hlo, clamp_of_zero _ _ _ h0 hlo]
    · rw [fadd_zero x z hz hnan h0]
  · rw [fadd, hnan, Bool.true_or, if_pos rfl, clamp_of_isNaN _ _ _ hnan, clamp_of_isNaN _ _ _ (by decide)]

/-- With AUTO_AMOUNT a zero the modulation is one: the sine is finite. -/
theorem lfoCutoff_of_zero_amount (c : Cfg) (snap : Controls) (p : F32) (hp : InUnit p) (h : fmag snap.autoAmount = 0) :
    lfoCutoff c snap p = clamp snap.cutoff cutoffMin cutoffMax := by
  have hamount := fmag_fmul_of_zero _ _ (isFinite_sinCfg_of_inUnit c p hp) (isFinite_of_fmag_zero _ h) (.inr h)
  have hdepth := fmag_fmul_of_zero _ lfoDepth (isFinite_of_fmag_zero _ hamount) (by decide) (.inl hamount)
  exact clamp_fadd_zero _ _ _ _ hdepth (by decide)

/-- Settles O25: the cutoff is a clamp, and a zero AUTO_AMOUNT adds a zero to CUTOFF before it. -/
theorem effectiveCutoffStaysInRange : Obligations.EffectiveCutoffStaysInRange := fun c snap p =>
  ⟨inCutoffRange_lfoCutoff c snap p, clamp_of_isNaN _ _ _, lfoCutoff_of_zero_amount c snap p⟩

/-! ## The coefficients and the recomputation test (R272 to R275, R278) -/

theorem mustRecompute_iff (ce : F32) (u : FilterUnit) :
    mustRecompute ce u = true ↔ u.coefValid = false ∨ flt hysteresis (fabs (fsub ce u.lastCutoff)) = true := by
  simp [mustRecompute]

/-- Both branches of HYSTERESIS. -/
theorem filtRecompute_eq (c : Cfg) (res ce : F32) (u : FilterUnit) :
    filtRecompute c res ce u =
      if u.coefValid = false ∨ flt hysteresis (fabs (fsub ce u.lastCutoff)) = true then
        { u with coefs := filtCoefs c ce res, lastCutoff := ce, coefValid := true }
      else u := by
  simp only [filtRecompute, mustRecompute_iff]

/-- With valid coefficients and a cutoff that moved by no more than 100.0 nothing changes. -/
theorem filtRecompute_keeps (c : Cfg) (res ce : F32) (u : FilterUnit) (hv : u.coefValid = true)
    (hd : flt hysteresis (fabs (fsub ce u.lastCutoff)) = false) : filtRecompute c res ce u = u := by
  rw [filtRecompute_eq, if_neg (by simp [hv, hd])]

/-- Settles O26: the formulas are the definitions', the two branches are HYSTERESIS's, and 1100.0 − 1000.0 is exactly 100.0. -/
theorem hysteresisDecidesTheRecomputation : Obligations.HysteresisDecidesTheRecomputation := by
  refine ⟨fun _ _ _ => rfl, fun c res ce u => ⟨fun h => ?_, filtRecompute_keeps c res ce u⟩, fun c res u hv hlast => ?_⟩
  · rw [filtRecompute_eq, if_pos h]
  · exact filtRecompute_keeps c res _ u hv (by rw [hlast]; decide)

/-! ## One frame and the frame loop (R279 to R283) -/

/-- Settles O27: a channel's output and history are computed from that channel and the coefficients alone. -/
theorem channelsAreFilteredSeparately : Obligations.ChannelsAreFilteredSeparately := by
  refine ⟨fun u f => ⟨rfl, rfl, rfl, rfl, rfl⟩, fun u v f g hcoefs => ⟨fun hhist hin => ?_, fun hhist hin => ?_⟩⟩
  · simp only [filterSample, hcoefs, hhist, hin, and_self]
  · simp only [filterSample, hcoefs, hhist, hin, and_self]

@[simp] theorem filterSample_lfoPhase (u : FilterUnit) (f : Frame) : (filterSample u f).2.lfoPhase = u.lfoPhase := rfl

@[simp] theorem filtRecompute_lfoPhase (c : Cfg) (res ce : F32) (u : FilterUnit) :
    (filtRecompute c res ce u).lfoPhase = u.lfoPhase := by
  unfold filtRecompute
  split <;> rfl

/-- One frame: recomputation at the cutoff of the phase before the advance, the biquad, the advance. -/
theorem filterFrame_eq (c : Cfg) (snap : Controls) (linc : F32) (u : FilterUnit) (f : Frame) :
    let v := filtRecompute c snap.resonance (lfoCutoff c snap u.lfoPhase) u
    filterFrame c snap linc u f =
      ((filterSample v f).1, { (filterSample v f).2 with lfoPhase := wrap (fadd u.lfoPhase linc) }) := by
  simp [filterFrame, lfoAdv]

/-- The filter that the first `i` frames leave. -/
def filterAfter (c : Cfg) (snap : Controls) (linc : F32) (u : FilterUnit) (fs : List Frame) (i : Nat) : FilterUnit :=
  (filterFrames c snap linc u (fs.take i)).2

@[simp] theorem filterAfter_zero (c : Cfg) (snap : Controls) (linc : F32) (u : FilterUnit) (fs : List Frame) :
    filterAfter c snap linc u fs 0 = u := rfl

@[simp] theorem filterAfter_length (c : Cfg) (snap : Controls) (linc : F32) (u : FilterUnit) (fs : List Frame) :
    filterAfter c snap linc u fs fs.length = (filterFrames c snap linc u fs).2 := by
  rw [filterAfter, List.take_length]

/-- Frame i is filtered by the filter that the frames before it left, and leaves the filter of the frames up to it. -/
theorem filterFrames_getElem? (c : Cfg) (snap : Controls) (linc : F32) (fs : List Frame) (u : FilterUnit) (i : Nat) (f : Frame)
    (h : fs[i]? = some f) :
    (filterFrames c snap linc u fs).1[i]? = some (filterFrame c snap linc (filterAfter c snap linc u fs i) f).1 ∧
      filterAfter c snap linc u fs (i + 1) = (filterFrame c snap linc (filterAfter c snap linc u fs i) f).2 := by
  induction fs generalizing u i with
  | nil => simp at h
  | cons g fs ih =>
    cases i with
    | zero =>
      obtain rfl : g = f := by simpa using h
      exact ⟨rfl, rfl⟩
    | succ i => exact ih _ i (by simpa using h)

/-- Settles O58: the filters between the frames are the ones the frame loop passes on. -/
theorem filterRunsFrameByFrame : Obligations.FilterRunsFrameByFrame := by
  refine ⟨fun c snap linc u f => ?_, fun c s => ⟨filterAfter c s.snap (lfoInc c s.snap) s.filt s.mix, rfl,
    (filterAfter_length _ _ _ _ _).symm, stageFilter_mix_length c s, filterFrames_getElem? c s.snap _ s.mix s.filt⟩⟩
  rw [filterFrame_eq, filtRecompute_eq]
  rfl

/-! ## The LFO over a PROCESS (R277, R282) -/

/-- A PROCESS runs the filter as it finds it, under its own snapshot, over the frames that reach the filter stage. -/
theorem processWhole_filt (c : Cfg) (n : Nat) (s : State) :
    (processWhole c n s).filt = (filterApply c s.ctl s.filt (filterEntry c n s).mix).2 := by
  rw [processWhole_filterEntry, stageComplete_filt, stageScale_filt, stageFilter, filterEntry_snap, filterEntry_filt]

theorem processWhole_lfoPhase (c : Cfg) (n : Nat) (s : State) :
    (processWhole c n s).filt.lfoPhase = (fun p => wrap (fadd p (lfoInc c s.ctl)))^[n] s.filt.lfoPhase := by
  rw [processWhole_filt, filterApply, filterFrames_lfoPhase, filterEntry_mix_length]

/-- Settles O56: each frame of the filter advances the LFO once. -/
theorem lfoPhaseIsTheIteratedAdvance : Obligations.LfoPhaseIsTheIteratedAdvance := fun n s hb =>
  ⟨_, exec_process_of_idle n s hb, processWhole_lfoPhase _ n s⟩

end Sys2Proof.Machine
end

section
/-! SUPPORT. What each command's `exec` answers, and that it acts on the state the running PROCESS leaves (43_engine.md R310 to
R322). -/

namespace Sys2Proof.Machine

/-! ## In an idle block -/

/-- Settles O6: the word is taken, not held, and at the staged pace a PROCESS is only accepted. -/
theorem stagedProcessIsAcceptedWithItsSnapshot : Obligations.StagedProcessIsAcceptedWithItsSnapshot :=
  fun s a rest w n h hw hd hp hb => ⟨_, step_of_staged_process s a rest w n h hw hd hp hb, rfl, rfl⟩

/-- Settles O14: an idle block waits for nothing, and the effect of NOTE_ON is the formula and the three updates. -/
theorem noteOnSetsFrequencyAndAttack : Obligations.NoteOnSetsFrequencyAndAttack := exec_noteOn_of_idle

/-- Settles O16: an idle block waits for nothing, and the effect of NOTE_OFF is the two updates. -/
theorem noteOffClearsTheFlagAndReleases : Obligations.NoteOffClearsTheFlagAndReleases :=
  ⟨by decide, exec_noteOff_of_idle⟩

/-- Settles O29: an idle block waits for nothing, and a PROCESS is its stages in order. -/
theorem processRunsItsStagesInOrder : Obligations.ProcessRunsItsStagesInOrder := exec_process_of_idle

/-! ## While a PROCESS runs -/

/-- Waiting after one stage of the running PROCESS ends where waiting before it does. -/
theorem awaitIdle_runStage (c : Cfg) (s : State) : awaitIdle c (runStage c s) = awaitIdle c s :=
  calc runStages c stageCount (runStage c s) = runStages c (stageCount + 1) s := rfl
    _ = runStages c 1 (awaitIdle c s) := runStages_add c stageCount 1 s
    _ = awaitIdle c s := runStages_idle c 1 _ ((not_busy_iff _).mp (awaitIdle_not_busy c s))

theorem awaitIdle_awaitIdle (c : Cfg) (s : State) : awaitIdle c (awaitIdle c s) = awaitIdle c s :=
  awaitIdle_idle c _ (awaitIdle_not_busy c s)

/-- A command sees of the state only what the running PROCESS leaves. -/
theorem exec_of_awaitIdle_eq (i : Instr) (s t : State) (h : awaitIdle Config.machine t = awaitIdle Config.machine s) :
    exec i s = exec i t := by
  cases i with
  | noteOn n => rw [exec_noteOn, exec_noteOn, h]
  | noteOff => rw [exec_noteOff, exec_noteOff, h]
  | process n => rw [exec_process, exec_process, h]

/-- Settles O17: every command waits first, and the wait ends in the same idle state from every later stage. -/
theorem commandActsAfterTheRunningProcess : Obligations.CommandActsAfterTheRunningProcess := fun i s =>
  ⟨exec_of_awaitIdle_eq i s _ (awaitIdle_runStage _ s), exec_of_awaitIdle_eq i s _ (awaitIdle_awaitIdle _ s),
    awaitIdle_not_busy _ s⟩

end Sys2Proof.Machine
end

section
/-! SUPPORT. What MIX holds after the oscillators and after the envelope: the sum in index order, and its bound (43_engine.md
R323 to R326, R330). -/

namespace Sys2Proof.Machine

/-! ## The sum in index order (R325) -/

/-- What oscillator k adds to a MIX word: its SCRATCH word i when it is enabled. -/
def addScratch (snap : Controls) (x : Scratch) (i : Nat) (acc : Frame) (k : OscId) : Frame :=
  if (snap.osc k).en then addFrame acc (((x.get k)[i]?).getD zeroFrame) else acc

theorem oscillatorRun_length (c : Cfg) (n : Nat) (k : OscId) (s : State) : (oscillatorRun c n k s).frames.length = n :=
  oscFrames_length _ _ _ _ _ _

/-- One oscillator's stage adds to each MIX word the SCRATCH word it leaves. -/
theorem stageOscillator_mix_getElem? (c : Cfg) (n : Nat) (k : OscId) (s : State) (i : Nat) (hi : i < n) (m : Frame)
    (hm : s.mix[i]? = some m) :
    (stageOscillator c n k s).mix[i]? = some (addScratch s.snap (stageOscillator c n k s).scratch i m k) := by
  cases hen : (s.snap.osc k).en
  · rw [stageOscillator_disabled c n k s hen, hm]
    simp [addScratch, hen]
  · obtain ⟨-, hscratch⟩ := stageOscillator_get_own c n k s hen
    obtain ⟨r, hrun⟩ : ∃ r, (oscillatorRun c n k s).frames[i]? = some r :=
      ⟨_, List.getElem?_eq_getElem (by rwa [oscillatorRun_length])⟩
    simp only [addScratch, hen, if_true, hscratch, hrun, Option.getD_some]
    rw [stageOscillator_enabled c n k s hen]
    simp [List.getElem?_zipWith, hm, hrun]

/-- The stages of oscillators that are all different add their SCRATCH words in the order of the list: no later stage writes an
earlier oscillator's SCRATCH. -/
theorem oscillatorStages_mix_getElem? (c : Cfg) (n : Nat) (ks : List OscId) (s : State) (hnd : ks.Nodup) (i : Nat) (hi : i < n)
    (m : Frame) (hm : s.mix[i]? = some m) :
    (oscillatorStages c n ks s).mix[i]? =
      some (ks.foldl (addScratch s.snap (oscillatorStages c n ks s).scratch i) m) := by
  induction ks generalizing s m with
  | nil => exact hm
  | cons k ks ih =>
    obtain ⟨hk, hnd⟩ := List.nodup_cons.mp hnd
    have hown : addScratch s.snap (oscillatorStages c n (k :: ks) s).scratch i m k =
        addScratch s.snap (stageOscillator c n k s).scratch i m k := by
      rw [oscillatorStages, addScratch, addScratch, (oscillatorStages_of_not_mem c n k ks _ hk).2]
    have hrest := ih (stageOscillator c n k s) hnd _ (stageOscillator_mix_getElem? c n k s i hi m hm)
    rwa [stageOscillator_snap, ← hown] at hrest

theorem oscillatorStages_mix_length (c : Cfg) (n : Nat) (ks : List OscId) (s : State) (h : s.mix.length = n) :
    (oscillatorStages c n ks s).mix.length = n := by
  induction ks generalizing s with
  | nil => exact h
  | cons k ks ih => exact ih _ (stageOscillator_mix_length c k s n h)

/-- Settles O30: the clear leaves +0.0 in every MIX word, and each enabled oscillator adds the n frames it leaves in its
SCRATCH. -/
theorem mixIsTheSumInIndexOrder : Obligations.MixIsTheSumInIndexOrder := by
  intro c n s
  refine ⟨fun k hen => ?_, oscillatorStages_mix_length c n allOscillators _ (by simp), fun i hi => ⟨_,
    oscillatorStages_mix_getElem? c n allOscillators _ (by decide) i hi zeroFrame (by simp [hi]), rfl⟩⟩
  obtain ⟨-, hscratch⟩ := oscillatorStages_of_mem c n k allOscillators (stageClearMix n (acceptProcess n s))
    (mem_allOscillators k) (by decide) hen
  exact (congrArg List.length hscratch).trans (oscFrames_length _ _ _ _ _ _)

/-! ## The bound (R330) -/

theorem fneg_fneg (x : F32) : fneg (fneg x) = x := by
  rw [fneg, fneg, BitVec.xor_assoc, BitVec.xor_self, BitVec.xor_zero]

/-- A magnitude that bounds the exact sum bounds the rounded one. -/
theorem fmag_fadd_le (x y : F32) (m : Nat) (hx : isFinite x = true) (hy : isFinite y = true) (hm : m ≤ infMag)
    (h : (units x + units y).natAbs ≤ magUnits m) : fmag (fadd x y) ≤ m := by
  have hsub := fmag_fsub_le x (fneg y) m hx (by rwa [isFinite_fneg]) hm (by rwa [units_fneg, sub_neg_eq_add])
  rwa [fsub, fneg_fneg] at hsub

/-- Both lanes of a frame are finite and at most the value with pattern `m` in magnitude. -/
def FrameAtMost (m : Nat) (f : Frame) : Prop := AtMost m f.left ∧ AtMost m f.right

theorem isFinite_of_atMost {m : Nat} {x : F32} (h : AtMost m x) (hm : m < infMag) : isFinite x = true :=
  (isFinite_iff x).mpr (h.trans_lt hm)

/-- A sum is at most a finite value that the sum of the bounds does not exceed. -/
theorem atMost_fadd {a b m : Nat} {x y : F32} (hx : AtMost a x) (hy : AtMost b y)
    (hbounds : a < infMag ∧ b < infMag ∧ m ≤ infMag ∧ magUnits a + magUnits b ≤ magUnits m) : AtMost m (fadd x y) := by
  obtain ⟨ha, hb, hm, hsum⟩ := hbounds
  refine fmag_fadd_le x y m (isFinite_of_atMost hx ha) (isFinite_of_atMost hy hb) hm ?_
  have hux := magUnits_le_magUnits ha.le hx
  have huy := magUnits_le_magUnits hb.le hy
  have hax := natAbs_units x
  have hay := natAbs_units y
  omega

/-- A product is at most a finite value that the product of the bounds does not exceed. -/
theorem atMost_fmul {a b m : Nat} {x y : F32} (hx : AtMost a x) (hy : AtMost b y)
    (hbounds : a < infMag ∧ b < infMag ∧ m ≤ infMag ∧ magUnits a * magUnits b ≤ magUnits m * oneUnits) :
    AtMost m (fmul x y) := by
  obtain ⟨ha, hb, hm, hprod⟩ := hbounds
  exact fmag_fmul_le x y m (isFinite_of_atMost hx ha) (isFinite_of_atMost hy hb) hm <|
    (Nat.mul_le_mul (magUnits_le_magUnits ha.le hx) (magUnits_le_magUnits hb.le hy)).trans hprod

theorem atMost_of_toNat_le {m : Nat} {x : F32} (h : x.toNat ≤ m) : AtMost m x := (Nat.mod_le _ _).trans h

/-- A value between a bound and its negative is at most the bound in magnitude. -/
theorem atMost_of_inRange {lo hi x : F32} {m : Nat} (h : inRange lo hi x = true) (hkeys : fkey lo = -m ∧ fkey hi = m) :
    AtMost m x := by
  rw [inRange, Bool.and_eq_true, fle_iff, fle_iff, hkeys.1, hkeys.2] at h
  obtain ⟨⟨-, -, hlo⟩, -, -, hhi⟩ := h
  unfold fkey at hlo hhi
  split_ifs at hlo hhi <;> omega

/-- Every word of a generation is at most 0.5 in magnitude (40_oscillator.md R189). -/
theorem frameAtMost_oscillatorRun (c : Cfg) (n : Nat) (k : OscId) (s : State) (h : InUnit (s.phases.get k)) :
    ∀ f ∈ (oscillatorRun c n k s).frames, FrameAtMost 0x3F000000 f := by
  intro f hf
  obtain ⟨q, j, hq, rfl⟩ := exists_oscValue_of_mem_oscGen c n _ _ _ _ h f hf
  have hhalf := atMost_of_inRange (m := 0x3F000000) (inRange_oscValue c (s.snap.osc k).wave q j hq) (by decide)
  exact ⟨hhalf, hhalf⟩

theorem exists_mem_of_mem_zipWith {f : Frame → Frame → Frame} {xs ys : List Frame} {z : Frame}
    (h : z ∈ List.zipWith f xs ys) : ∃ x ∈ xs, ∃ y ∈ ys, z = f x y := by
  rw [← List.map_uncurry_zip_eq_zipWith, List.mem_map] at h
  obtain ⟨⟨x, y⟩, hxy, rfl⟩ := h
  obtain ⟨hx, hy⟩ := List.of_mem_zip hxy
  exact ⟨x, hx, y, hy, rfl⟩

/-- One oscillator's stage raises the bound by at most 0.5. -/
theorem frameAtMost_stageOscillator (c : Cfg) (n : Nat) (k : OscId) (s : State) (a m : Nat) (hphase : InUnit (s.phases.get k))
    (hmix : ∀ f ∈ s.mix, FrameAtMost a f)
    (hbounds : a < infMag ∧ a ≤ m ∧ m ≤ infMag ∧ magUnits a + magUnits 0x3F000000 ≤ magUnits m) :
    ∀ f ∈ (stageOscillator c n k s).mix, FrameAtMost m f := by
  obtain ⟨ha, ham, hm, hsum⟩ := hbounds
  cases hen : (s.snap.osc k).en
  · rw [stageOscillator_disabled c n k s hen]
    exact fun f hf => ⟨(hmix f hf).1.trans ham, (hmix f hf).2.trans ham⟩
  · rw [stageOscillator_enabled c n k s hen]
    intro f hf
    obtain ⟨g, hg, r, hr, rfl⟩ := exists_mem_of_mem_zipWith hf
    obtain ⟨hgl, hgr⟩ := hmix g hg
    obtain ⟨hrl, hrr⟩ := frameAtMost_oscillatorRun c n k s hphase r hr
    exact ⟨atMost_fadd hgl hrl ⟨ha, by decide, hm, hsum⟩, atMost_fadd hgr hrr ⟨ha, by decide, hm, hsum⟩⟩

/-- A gain in [+0.0, 1.0] does not raise the bound. -/
theorem frameAtMost_scaleFrame {m : Nat} {f : Frame} (g : F32) (hg : InUnitClosed g) (hm : m < infMag)
    (hf : FrameAtMost m f) : FrameAtMost m (scaleFrame g f) := by
  have hone : magUnits 0x3F800000 = oneUnits := by decide
  have hbounds : m < infMag ∧ 0x3F800000 < infMag ∧ m ≤ infMag ∧ magUnits m * magUnits 0x3F800000 ≤ magUnits m * oneUnits :=
    ⟨hm, by decide, hm.le, by rw [hone]⟩
  exact ⟨atMost_fmul hf.1 (atMost_of_toNat_le hg) hbounds, atMost_fmul hf.2 (atMost_of_toNat_le hg) hbounds⟩

/-- The envelope's gains are in [+0.0, 1.0]. -/
theorem frameAtMost_envApply (m : Nat) (hm : m < infMag) (fs : List Frame) (e : Envelope) (he : EnvelopeOk e)
    (hfs : ∀ f ∈ fs, FrameAtMost m f) : ∀ f ∈ (envApply e fs).1, FrameAtMost m f := by
  induction fs generalizing e with
  | nil => exact List.forall_mem_nil _
  | cons f fs ih =>
    rw [List.forall_mem_cons] at hfs
    have hstep := envelopeOk_envStep e he
    exact List.forall_mem_cons.mpr ⟨frameAtMost_scaleFrame _ hstep.value hm hfs.1, ih _ hstep hfs.2⟩

/-- Settles O31: from +0.0 each of the three oscillators adds at most 0.5, and the sums 0.5, 1.0 and 1.5 are exact. -/
theorem mixStaysFiniteAndBounded : Obligations.MixStaysFiniteAndBounded := by
  intro c n s hphases henv a t
  have hclear : ∀ f ∈ a.mix, FrameAtMost 0 f := fun f hf => by
    rw [List.eq_of_mem_replicate hf]
    exact ⟨by decide, by decide⟩
  have h0 := frameAtMost_stageOscillator c n .osc0 a 0 0x3F000000 (hphases .osc0) hclear (by decide)
  have hphases0 := inUnit_stageOscillator c n .osc0 a hphases
  have h1 := frameAtMost_stageOscillator c n .osc1 _ 0x3F000000 0x3F800000 (hphases0 .osc1) h0 (by decide)
  have hphases1 := inUnit_stageOscillator c n .osc1 _ hphases0
  have hmix : ∀ f ∈ t.mix, FrameAtMost 0x3FC00000 f :=
    frameAtMost_stageOscillator c n .osc2 _ 0x3F800000 0x3FC00000 (hphases1 .osc2) h1 (by decide)
  have henvT : EnvelopeOk t.env := by simpa [t, a] using henv
  refine ⟨hmix, fun f hf => ?_⟩
  obtain ⟨hleft, hright⟩ :=
    frameAtMost_envApply 0x3FC00000 (by decide) t.mix _ (envelopeOk_envSetRates c t.snap _ henvT) hmix f hf
  exact ⟨hleft, hright, isFinite_of_atMost hleft (by decide), isFinite_of_atMost hright (by decide)⟩

end Sys2Proof.Machine
end

section
/-! SUPPORT. NOTE_ON of a whole number of octaves: every operation of the formula is exact (43_engine.md R311, R313). -/

namespace Sys2Proof.Machine

/-! ## The exponent -/

/-- Rounding depends on the quotient only. -/
theorem roundMag_eq_of_mul_eq {a b c d : Nat} (hb : 0 < b) (hd : 0 < d) (h : a * d = c * b) : roundMag a b = roundMag c d :=
  le_antisymm (roundMag_mono a b c d hb hd h.le) (roundMag_mono c d a b hd hb h.ge)

theorem toF32_of_ne_zero {i : Int} (h : i ≠ 0) : toF32 i = roundUnits (i * 2 ^ 149) 1 := by
  rw [toF32, if_neg h]
  norm_cast

/-- Twelve times j semitones are exactly j octaves. -/
theorem fdiv_toF32_semitones (j : Int) (h : (12 * j).natAbs ≤ 2 ^ 24) : fdiv (toF32 (12 * j)) semitones = toF32 j := by
  rcases eq_or_ne j 0 with rfl | h0
  · decide
  obtain ⟨hfin, hunits, hsign⟩ := toF32_of_representable (12 * j) (representable_of_natAbs_le _ h)
  have hmag : magUnits (fmag (toF32 (12 * j))) = 12 * j.natAbs * 2 ^ 149 := by rw [← natAbs_units, hunits]; omega
  have htwelve : isNaN semitones = false ∧ isInf semitones = false ∧ fmag semitones ≠ 0 ∧ fsign semitones = false ∧
      magUnits (fmag semitones) = 12 * 2 ^ 149 := by decide
  obtain ⟨hnan, hinf, hne, hpos, htwelve⟩ := htwelve
  have hquot : fdiv (toF32 (12 * j)) semitones =
      fpack (fsign (toF32 (12 * j))) (roundMag (12 * j.natAbs * 2 ^ 149 * oneUnits) (12 * 2 ^ 149)) := by
    simp [fdiv, isNaN_of_isFinite, isInf_of_isFinite, hfin, hnan, hinf, hne, hpos, hmag, htwelve]
  rw [hquot, toF32_of_ne_zero h0, roundUnits, hsign]
  refine congrArg₂ fpack ?_ ?_
  · exact decide_eq_decide.mpr (by omega)
  · exact roundMag_eq_of_mul_eq (by decide) (by decide) <| by
      rw [Int.natAbs_mul, show (2 ^ 149 : Int).natAbs = 2 ^ 149 by decide, oneUnits]
      ring

/-- A sum of integers of at most 24 bits is exact; an exact zero is +0.0, since no integer converts to −0.0. -/
theorem fadd_toF32 (i j : Int) (hi : i.natAbs ≤ 2 ^ 24) (hj : j.natAbs ≤ 2 ^ 24) :
    fadd (toF32 i) (toF32 j) = toF32 (i + j) := by
  obtain ⟨hfi, hui, hsi⟩ := toF32_of_representable i (representable_of_natAbs_le i hi)
  obtain ⟨hfj, huj, hsj⟩ := toF32_of_representable j (representable_of_natAbs_le j hj)
  rw [fadd, if_neg (by simp [isNaN_of_isFinite, hfi, hfj]), if_neg (by simp [isInf_of_isFinite, hfi]),
    if_neg (by simp [isInf_of_isFinite, hfj]), hui, huj, hsi, hsj, ← add_mul]
  rcases eq_or_ne (i + j) 0 with h0 | h0
  · have hsigns : ¬ (decide (i < 0) && decide (j < 0)) = true := by simp; omega
    rw [h0, if_pos (by decide), if_neg hsigns]
    rfl
  · rw [if_neg (by omega), toF32_of_ne_zero h0]

/-! ## The product -/

/-- 220 · 2^k is a significand of 24 bits in the binade it lies in. -/
theorem representable_baseFreq (k : Int) (h1 : -126 ≤ k) (h2 : k ≤ 120) : Representable (220 * 2 ^ (k + 149).toNat) := by
  refine ⟨(k + 133).toNat * 2 ^ 23 + 220 * 2 ^ 16, by change _ < 255 * 2 ^ 23; omega, ?_⟩
  rw [magUnits_scaled _ _ (by decide) (.inr (by decide)), show (k + 149).toNat = 16 + (k + 133).toNat by omega, pow_add,
    Nat.mul_assoc]

/-- BASE_FREQ times 2^k is exactly 220 · 2^k where that is finite. -/
theorem fmul_baseFreq_pow2 (k : Int) (h1 : -126 ≤ k) (h2 : k ≤ 120) :
    isFinite (fmul baseFreq (pow2 k)) = true ∧ units (fmul baseFreq (pow2 k)) = 220 * 2 ^ (k + 149).toNat := by
  obtain ⟨hfin, hmag⟩ := roundMag_of_representable _ (representable_baseFreq k h1 h2)
  have hpow : magUnits (fmag (pow2 k)) = 2 ^ (k + 149).toNat := by
    rw [← natAbs_units, units_pow2 k h1 (by omega)]
    norm_cast
  have hbase : isFinite baseFreq = true ∧ fsign baseFreq = false ∧ magUnits (fmag baseFreq) = 220 * 2 ^ 149 := by decide
  obtain ⟨hfbase, hsbase, hbase⟩ := hbase
  have hspow : fsign (pow2 k) = false := by
    rw [pow2_eq_fpack k h1]
    exact fsign_fpack _ _ (by omega)
  have hround : roundMag (220 * 2 ^ 149 * 2 ^ (k + 149).toNat) oneUnits = roundMag (220 * 2 ^ (k + 149).toNat) 1 :=
    roundMag_eq_of_mul_eq (by decide) (by decide) (by rw [oneUnits]; ring)
  rw [fmul_of_isFinite _ _ hfbase (isFinite_pow2 k h1 (by omega)), hsbase, hspow, hbase, hpow, hround, bne_self_eq_false,
    units_fpack _ _ (hfin.trans (by decide)), hmag]
  exact ⟨isFinite_fpack _ _ hfin, by simp⟩

/-! ## NOTE_ON -/

/-- The exponent of a whole number of octaves. -/
theorem octaveExponent_eq_toF32 (o j : Int) (hlo : -2730 ≤ j) (hhi : j ≤ 2730) (h1 : -126 ≤ o + j) (h2 : o + j ≤ 127) :
    fadd (toF32 o) (fdiv (toF32 (12 * j)) semitones) = toF32 (o + j) := by
  rw [fdiv_toF32_semitones j (by omega), fadd_toF32 o j (by omega) (by omega)]

/-- The note frequency of a whole number of octaves: the exponential of a whole exponent is exact for every configuration. -/
theorem noteFreqOf_octaves (c : Cfg) (octave : Word) (j : Int) (hlo : -2730 ≤ j) (hhi : j ≤ 2730)
    (h1 : -126 ≤ octave.toInt + j) (h2 : octave.toInt + j ≤ 127) :
    noteFreqOf c octave (12 * j) = fmul baseFreq (pow2 (octave.toInt + j)) := by
  rw [noteFreqOf, octaveExponent_eq_toF32 _ j hlo hhi h1 h2, exp2Cfg_of_exactExponent c _ _ (exactExponent_toF32 _ h1 h2)]

/-- Settles O15: the division by 12, the sum, the exponential and the product are all exact. -/
theorem wholeOctavesAreExact : Obligations.WholeOctavesAreExact := by
  refine ⟨fun s j k hb hlo hhi hk h1 h2 => ?_, fun s hb hoct => ?_⟩
  · subst hk
    refine ⟨octaveExponent_eq_toF32 _ j hlo hhi h1 h2, _, exec_noteOn_of_idle _ s hb, fun h120 => ?_⟩
    have hfreq := noteFreqOf_octaves Config.machine s.ctl.octave j hlo hhi h1 h2
    simp only [noteOnEffect, hfreq]
    exact fmul_baseFreq_pow2 _ h1 h120
  · have hfreq : noteFreqOf Config.machine 0#32 (12 * 0) = fmul baseFreq (pow2 (0 + 0)) :=
      noteFreqOf_octaves Config.machine 0#32 0 (by decide) (by decide) (by decide) (by decide)
    refine ⟨_, exec_noteOn_of_idle 0 s hb, ?_⟩
    simp only [noteOnEffect, hoct]
    exact hfreq.trans (by decide)

end Sys2Proof.Machine
end

section
/-! SUPPORT. OUTBUF after a PROCESS, and a PROCESS of no frames (43_engine.md R320, R328). -/

namespace Sys2Proof.Machine

/-! ## OUTBUF after a PROCESS (R328) -/

theorem processWhole_mix (c : Cfg) (n : Nat) (s : State) :
    (processWhole c n s).mix = (stageFilter c (filterEntry c n s)).mix := rfl

theorem processWhole_mix_length (c : Cfg) (n : Nat) (s : State) : (processWhole c n s).mix.length = n := by
  rw [processWhole_mix, stageFilter_mix_length, filterEntry_mix_length]

/-- OUTBUF words 2i and 2i + 1 are the lanes of MIX frame i times VOLUME. -/
theorem outbufWord_processWhole (c : Cfg) (n : Nat) (s : State) (i : Nat) (f : Frame)
    (h : (processWhole c n s).mix[i]? = some f) :
    outbufWord c (processWhole c n s) (2 * i) = fmul f.left s.ctl.volume ∧
      outbufWord c (processWhole c n s) (2 * i + 1) = fmul f.right s.ctl.volume := by
  have hwords := outbufWord_stageScale c (stageFilter c (filterEntry c n s)) i f h
  rwa [stageFilter_snap, filterEntry_snap] at hwords

/-- A PROCESS writes the bytes of words 0 to 2n − 1 only. -/
theorem readByte_processWhole_other (c : Cfg) (n : Nat) (s : State) (a : Nat) (h : a < outbufBase ∨ outbufBase + 8 * n ≤ a) :
    readByte (processWhole c n s).outbuf a = readByte s.outbuf a := by
  have hout : (stageFilter c (filterEntry c n s)).outbuf = s.outbuf := by
    simp [filterEntry, oscillatorStages, allOscillators]
  rw [processWhole_filterEntry, stageComplete_outbuf, stageScale_outbuf, hout]
  exact readByte_writeFrames_other _ _ _ _ (by simpa using h)

/-- A word whose four bytes two states hold alike, in the same reset epoch. -/
theorem outbufWord_congr (c : Cfg) (s t : State) (i : Nat) (hresets : t.resets = s.resets)
    (h : ∀ b < 4, readByte t.outbuf (outbufBase + 4 * i + b) = readByte s.outbuf (outbufBase + 4 * i + b)) :
    outbufWord c t i = outbufWord c s i := by
  have hbyte (b : Nat) (hb : b < 4) :
      outbufByte c t (outbufBase + 4 * i + b) = outbufByte c s (outbufBase + 4 * i + b) := by
    rw [outbufByte, outbufByte, h b hb, hresets]
  rw [outbufWord, outbufWord, hbyte 3 (by decide), hbyte 2 (by decide), hbyte 1 (by decide)]
  exact congrArg _ (hbyte 0 (by decide))

theorem outbufWord_processWhole_other (c : Cfg) (n : Nat) (s : State) (i : Nat) (h : 2 * n ≤ i) :
    outbufWord c (processWhole c n s) i = outbufWord c s i := by
  obtain ⟨-, -, -, -, -, -, -, hresets, -, -⟩ := processWhole_frame c n s
  exact outbufWord_congr c s _ i hresets fun b _ => readByte_processWhole_other c n s _ (.inr (by omega))

theorem fmul_of_isNaN_right (x v : F32) (h : isNaN v = true) : fmul x v = qNaN := by simp [fmul, h]

theorem fmul_zero_of_isInf (x v : F32) (hx : fmag x = 0) (hv : isInf v = true) : fmul x v = qNaN := by
  have hfin := isFinite_of_fmag_zero x hx
  simp [fmul, isNaN_of_isFinite x hfin, isNaN_of_isInf v hv, hv, hx]

/-- Settles O32: the scaling stage is the only one that writes OUTBUF, at the offsets of the MIX frames. -/
theorem processWritesScaledMixToOutbuf : Obligations.ProcessWritesScaledMixToOutbuf :=
  ⟨fun n s hb => ⟨_, exec_process_of_idle n s hb, processWhole_mix_length _ n s, outbufWord_processWhole _ n s,
    outbufWord_processWhole_other _ n s, readByte_processWhole_other _ n s⟩, fmul_of_isNaN_right, fmul_zero_of_isInf⟩

/-! ## A PROCESS of no frames (R320) -/

theorem Phases.eq_of_get {p q : Phases} (h : ∀ k, p.get k = q.get k) : p = q := by
  cases p
  cases q
  exact congr (congr (congrArg Phases.mk (h .osc0)) (h .osc1)) (h .osc2)

/-- A generation of no frames leaves the phase. -/
theorem processWhole_zero_phases (c : Cfg) (s : State) : (processWhole c 0 s).phases = s.phases := by
  refine Phases.eq_of_get fun k => ?_
  cases hen : (s.ctl.osc k).en
  · exact (processWhole_of_disabled c 0 k s hen).1
  · exact (processWhole_of_enabled c 0 k s hen).1.trans (oscGen_phase _ _ _ _ _ _)

/-- Without a MIX frame the filter and OUTBUF stay. -/
theorem processWhole_zero_filt (c : Cfg) (s : State) : (processWhole c 0 s).filt = s.filt := by
  rw [processWhole_filt, List.eq_nil_of_length_eq_zero (filterEntry_mix_length c 0 s)]
  rfl

theorem processWhole_zero_outbuf (c : Cfg) (s : State) : (processWhole c 0 s).outbuf = s.outbuf := by
  have hmix : (stageFilter c (filterEntry c 0 s)).mix = [] := List.eq_nil_of_length_eq_zero (processWhole_mix_length c 0 s)
  rw [processWhole_filterEntry, stageComplete_outbuf, stageScale_outbuf, outputFrames, hmix, List.map_nil, writeFrames]
  simp [filterEntry, oscillatorStages, allOscillators]

/-- What every register but the two envelope rates reads. -/
theorem regValue_congr (s t : State) (hctl : t.ctl = s.ctl) (hphases : t.phases = s.phases) (hfilt : t.filt = s.filt)
    (hstatus : statusWord t = statusWord s) (hstate : t.env.state = s.env.state) (hvalue : t.env.value = s.env.value)
    (r : Reg) (hattack : r ≠ .envAttackRate) (hrelease : r ≠ .envReleaseRate) : regValue t r = regValue s r := by
  cases r with
  | envAttackRate => exact absurd rfl hattack
  | envReleaseRate => exact absurd rfl hrelease
  | _ => simp only [regValue, hctl, hphases, hfilt, hstatus, hstate, hvalue]

/-- Settles O34: the envelope takes its rates and no step, and every other stage runs over no frames. -/
theorem processOfZeroFramesOnlySetsTheRates : Obligations.ProcessOfZeroFramesOnlySetsTheRates := by
  intro s hb
  obtain ⟨hill, herr, hctl, -, -, -, -, -, -, -⟩ := processWhole_frame Config.machine 0 s
  have henv := processWhole_env Config.machine 0 s
  have hphases := processWhole_zero_phases Config.machine s
  have hfilt := processWhole_zero_filt Config.machine s
  have hbusy := processWhole_busy Config.machine 0 s
  have hstatus : statusWord (processWhole Config.machine 0 s) = statusWord s := by
    simp only [statusWord, hbusy, hb, hill, herr, hfilt]
  refine ⟨_, exec_process_of_idle 0 s hb, henv, hctl, hphases, hfilt, processWhole_zero_outbuf _ s, hbusy, hill, herr, ?_,
    regValue_congr s _ hctl hphases hfilt hstatus (by rw [henv]; rfl) (by rw [henv]; rfl)⟩
  rw [processWhole_noiseDraws, Nat.zero_mul, Nat.add_zero]

end Sys2Proof.Machine
end

section
/-! SUPPORT. The filter's coefficients where the sine is not negative: they are finite, the three input ones not negative
(42_filter.md R272 to R275). -/

namespace Sys2Proof.Machine

/-! ## Results of finite operations -/

/-- A sum that is not below zero has its sign bit clear, unless both operands have it set, and lies between the patterns that the
exact sum lies between. -/
theorem toNat_fadd_between (x y : F32) (lo hi : Nat) (hx : isFinite x = true) (hy : isFinite y = true)
    (hsign : fsign x = false ∨ fsign y = false) (hbounds : lo ≤ hi ∧ hi < infMag)
    (hlo : (magUnits lo : Int) ≤ units x + units y) (hhi : units x + units y ≤ magUnits hi) :
    lo ≤ (fadd x y).toNat ∧ (fadd x y).toNat ≤ hi := by
  obtain ⟨hle, hinf⟩ := hbounds
  rw [fadd, if_neg (by simp [isNaN_of_isFinite, hx, hy]), if_neg (by simp [isInf_of_isFinite, hx]),
    if_neg (by simp [isInf_of_isFinite, hy])]
  rcases eq_or_ne (units x + units y) 0 with h0 | h0
  · have hsigns : ¬ (fsign x && fsign y) = true := by rcases hsign with h | h <;> simp [h]
    have hlo0 : lo = 0 := (magUnits_eq_zero_iff lo (hle.trans hinf.le)).mp (by omega)
    rw [if_pos h0, if_neg hsigns, hlo0]
    exact ⟨Nat.zero_le _, Nat.zero_le _⟩
  · rw [if_neg h0, roundUnits, decide_eq_false (by omega), fpack_toNat _ _ ((roundMag_le_infMag _ _).trans_lt (by decide)),
      if_neg Bool.false_ne_true, Nat.add_zero]
    exact ⟨le_roundMag_of_le _ _ _ (by decide) (hle.trans hinf.le) (by omega),
      roundMag_le_of_le _ _ _ (by decide) hinf.le (by omega)⟩

/-- A product of values with the sign bit clear has it clear. -/
theorem toNat_fmul_le {a b m : Nat} {x y : F32} (hx : x.toNat ≤ a) (hy : y.toNat ≤ b)
    (hbounds : a < infMag ∧ b < infMag ∧ m ≤ infMag ∧ magUnits a * magUnits b ≤ magUnits m * oneUnits) :
    (fmul x y).toNat ≤ m := by
  obtain ⟨hfx, hsx, -⟩ := finite_of_toNat_lt x (hx.trans_lt hbounds.1)
  obtain ⟨hfy, hsy, -⟩ := finite_of_toNat_lt y (hy.trans_lt hbounds.2.1)
  have hsign : fsign (fmul x y) = false := by
    rw [fmul_of_isFinite x y hfx hfy, hsx, hsy]
    exact fsign_fpack _ _ ((roundMag_le_infMag _ _).trans_lt (by decide))
  rw [toNat_eq_fmag _ hsign]
  exact atMost_fmul (atMost_of_toNat_le hx) (atMost_of_toNat_le hy) hbounds

/-- A quotient of finite values is the rounded quotient of the magnitudes, with the sign of the quotient. -/
theorem fdiv_of_isFinite (x y : F32) (hx : isFinite x = true) (hy : isFinite y = true) (hy0 : fmag y ≠ 0) :
    fdiv x y = fpack (fsign x != fsign y) (roundMag (magUnits (fmag x) * oneUnits) (magUnits (fmag y))) := by
  simp [fdiv, isNaN_of_isFinite, isInf_of_isFinite, hx, hy, hy0]

/-- A quotient by a positive value is at most a finite value that the quotient of the bounds does not exceed, and a dividend
that is not below zero gives no quotient below zero. -/
theorem fdiv_range {a m : Nat} {x y : F32} (den : Nat) (hx : AtMost a x) (hy : isFinite y = true) (hden : (den : Int) ≤ units y)
    (hbounds : a < infMag ∧ 0 < den ∧ m ≤ infMag ∧ magUnits a * oneUnits ≤ magUnits m * den) :
    AtMost m (fdiv x y) ∧ (0 ≤ units x → 0 ≤ units (fdiv x y)) := by
  obtain ⟨ha, hpos, hm, hquot⟩ := hbounds
  have hfx := isFinite_of_atMost hx ha
  have hy0 : fmag y ≠ 0 := mt (units_eq_zero_iff y hy).mpr (by omega)
  have hsy : fsign y = false := by rw [fsign_eq_decide_units y hy hy0, decide_eq_false_iff_not]; omega
  have hdeny : den ≤ magUnits (fmag y) := by rw [← natAbs_units]; omega
  have hround : roundMag (magUnits (fmag x) * oneUnits) (magUnits (fmag y)) ≤ m :=
    roundMag_le_of_le _ _ _ (hpos.trans_le hdeny) hm <|
      calc magUnits (fmag x) * oneUnits ≤ magUnits a * oneUnits := Nat.mul_le_mul_right _ (magUnits_le_magUnits ha.le hx)
        _ ≤ magUnits m * den := hquot
        _ ≤ magUnits m * magUnits (fmag y) := Nat.mul_le_mul_left _ hdeny
  have h31 := (hround.trans hm).trans_lt (show infMag < 2 ^ 31 by decide)
  rw [fdiv_of_isFinite x y hfx hy hy0, hsy, Bool.bne_false, units_fpack _ _ h31, AtMost, fmag_fpack _ _ h31]
  refine ⟨hround, fun hx0 => ?_⟩
  rcases eq_or_ne (fmag x) 0 with h0 | h0
  · have hzero : roundMag (magUnits (fmag x) * oneUnits) (magUnits (fmag y)) = 0 :=
      Nat.le_zero.mp (roundMag_le_of_le _ _ 0 (hpos.trans_le hdeny) (Nat.zero_le _) (by simp [h0, show magUnits 0 = 0 by decide]))
    rw [hzero]
    split <;> decide
  · rw [fsign_eq_decide_units x hfx h0, decide_eq_false (by omega), if_neg Bool.false_ne_true]
    exact Int.natCast_nonneg _

/-! ## The parts of the coefficients -/

theorem sampleRate_range (c : Cfg) : isFinite (sampleRate c) = true ∧ (magUnits 0x471C4000 : Int) ≤ units (sampleRate c) := by
  have hlegal := legalSampleRate_sampleRate c
  rw [legalSampleRate, Bool.and_eq_true] at hlegal
  obtain ⟨hfin, hlt⟩ := hlegal
  have hnn := (positive_of_flt 0x471C4000#32 _ (by decide) hlt).1
  rw [flt_of_nonNegative _ _ (by decide) hnn, decide_eq_true_eq] at hlt
  obtain ⟨hs, -⟩ := (nonNegative_iff _).mp hnn
  rw [units, hs, if_neg Bool.false_ne_true, ← toNat_eq_fmag _ hs]
  exact ⟨hfin, by exact_mod_cast magUnits_le_magUnits hnn hlt.le⟩

/-- The angular cutoff of an effective cutoff is finite: 2π · 20000 is below 2^17, and the sample rate above 40000. -/
theorem isFinite_filtOmega (c : Cfg) (cut : F32) (h : InCutoffRange cut) : isFinite (filtOmega c cut) = true := by
  obtain ⟨hrate, hrateLo⟩ := sampleRate_range c
  have hprod : AtMost 0x48000000 (fmul twoPi cut) :=
    atMost_fmul (a := 0x40C90FDB) (by decide) (atMost_of_toNat_le h.2) (by decide)
  have homega : AtMost 0x40800000 (filtOmega c cut) := (fdiv_range (magUnits 0x471C4000) hprod hrate hrateLo (by decide)).1
  exact isFinite_of_atMost homega (by decide)

/-- Alpha of a sine in [0, 1] is in [0, 1]: twice Q is at least 1. -/
theorem filtAlpha_range (c : Cfg) (w res : F32) (hw : isFinite w = true) (hsine : fle posZero (sinCfg c w) = true) :
    AtMost 0x3F800000 (filtAlpha c w (filtQ (filtRes res))) ∧ 0 ≤ units (filtAlpha c w (filtQ (filtRes res))) := by
  obtain ⟨q, hq, hlo, hhi⟩ := filtQ_range res
  have hnat : (filtQ (filtRes res)).toNat = q := by
    rw [hq, fpack_toNat _ _ (hhi.trans_lt (by decide))]
    rfl
  obtain ⟨hfin, htwice, -⟩ := fmul_gain_between ftwo (filtQ (filtRes res)) 0x3F000000 0x4248000D 0x3F800000 0x42C8000D
    (by rwa [hnat]) (by rwa [hnat]) (by decide)
  have hsin : AtMost 0x3F800000 (sinCfg c w) := atMost_of_inRange (inRange_sinCfg c w hw) (by decide)
  obtain ⟨hmag, hpos⟩ := fdiv_range (m := 0x3F800000) (magUnits 0x3F800000) hsin hfin htwice (by decide)
  exact ⟨hmag, hpos (units_nonneg_of_zero_fle _ hsine)⟩

theorem natAbs_units_le_of_atMost_one {x : F32} (h : AtMost 0x3F800000 x) : (units x).natAbs ≤ 2 ^ 149 := by
  rw [natAbs_units, show 2 ^ 149 = magUnits 0x3F800000 by decide]
  exact magUnits_le_magUnits (by decide) h

/-- Taking a value in [−1, 1] from 1.0 leaves one in [+0.0, 2.0]. -/
theorem toNat_fone_fsub_le {x : F32} (h : AtMost 0x3F800000 x) : (fsub fone x).toNat ≤ 0x40000000 := by
  have habs := natAbs_units_le_of_atMost_one h
  have hone : units fone = 2 ^ 149 ∧ magUnits 0 = 0 ∧ magUnits 0x40000000 = 2 * 2 ^ 149 := by decide
  have hunits := units_fneg x
  exact (toNat_fadd_between fone (fneg x) 0 0x40000000 (by decide) (by rw [isFinite_fneg]; exact isFinite_of_atMost h (by decide))
    (.inl (by decide)) (by decide) (by omega) (by omega)).2

/-- The norm of an alpha in [0, 1] is in [+0.0, 1.0]. -/
theorem toNat_filtNorm_le {alpha : F32} (h : AtMost 0x3F800000 alpha) (h0 : 0 ≤ units alpha) :
    (filtNorm alpha).toNat ≤ 0x3F800000 := by
  have habs := natAbs_units_le_of_atMost_one h
  have hone : units fone = 2 ^ 149 ∧ magUnits 0x3F800000 = 2 ^ 149 ∧ magUnits 0x40000000 = 2 * 2 ^ 149 := by decide
  obtain ⟨hlo, hhi⟩ := toNat_fadd_between fone alpha 0x3F800000 0x40000000 (by decide) (isFinite_of_atMost h (by decide))
    (.inl (by decide)) (by decide) (by omega) (by omega)
  obtain ⟨hfin, hsign, hmag⟩ := finite_of_toNat_lt (fadd fone alpha) (hhi.trans_lt (by decide))
  have hunits : (magUnits 0x3F800000 : Int) ≤ units (fadd fone alpha) := by
    rw [units, hsign, if_neg Bool.false_ne_true, hmag]
    exact_mod_cast magUnits_le_magUnits (hhi.trans (by decide)) hlo
  obtain ⟨hs, -⟩ := (nonNegative_iff _).mp (nonNegative_fdiv_fone _ (hhi.trans (by decide)))
  rw [filtNorm, toNat_eq_fmag _ hs]
  exact (fdiv_range (a := 0x3F800000) (magUnits 0x3F800000) (by decide) hfin hunits (by decide)).1

/-- The coefficients of an alpha in [0, 1] and a cosine in [−1, 1]. -/
theorem coefsOk_filtCoef {alpha cw norm : F32} (halpha : AtMost 0x3F800000 alpha) (hcw : AtMost 0x3F800000 cw)
    (hnorm : norm.toNat ≤ 0x3F800000) : CoefsOk (filtCoef alpha cw norm) := by
  have hdiff := toNat_fone_fsub_le hcw
  have hhalf : (fmul (fsub fone cw) fhalf).toNat ≤ 0x3F800000 := toNat_fmul_le (b := 0x3F000000) hdiff (by decide) (by decide)
  have ha0 : (fmul (fmul (fsub fone cw) fhalf) norm).toNat ≤ 0x3F800000 := toNat_fmul_le hhalf hnorm (by decide)
  have ha1 : (fmul (fsub fone cw) norm).toNat ≤ 0x40000000 := toNat_fmul_le hdiff hnorm (by decide)
  have htwice : AtMost 0x40000000 (fmul fminusTwo cw) := atMost_fmul (a := 0x40000000) (by decide) hcw (by decide)
  have hb1 : AtMost 0x40000000 (fmul (fmul fminusTwo cw) norm) := atMost_fmul htwice (atMost_of_toNat_le hnorm) (by decide)
  have hb2 : (fmul (fsub fone alpha) norm).toNat ≤ 0x40000000 := toNat_fmul_le (toNat_fone_fsub_le halpha) hnorm (by decide)
  exact ⟨ha0.trans_lt (by decide), ha1.trans_lt (by decide), ha0.trans_lt (by decide), isFinite_of_atMost hb1 (by decide),
    isFinite_of_atMost (atMost_of_toNat_le hb2) (by decide)⟩

/-- The coefficients of an effective cutoff. -/
theorem coefsOk_filtCoefs (c : Cfg) (hsine : SineNonNegative c) (cut res : F32) (hcut : InCutoffRange cut) :
    CoefsOk (filtCoefs c cut res) := by
  have homega := isFinite_filtOmega c cut hcut
  obtain ⟨halpha, halpha0⟩ := filtAlpha_range c (filtOmega c cut) res homega (hsine cut hcut)
  exact coefsOk_filtCoef halpha (atMost_of_inRange (inRange_cosCfg c _ homega) (by decide)) (toNat_filtNorm_le halpha halpha0)

end Sys2Proof.Machine
end

section
/-! SUPPORT. A PROCESS with every oscillator disabled (43_engine.md R331): zeros stay zeros through every stage. -/

namespace Sys2Proof.Machine

/-! ## Zeros -/

theorem eq_posZero_or_eq_negZero {z : F32} (h : fmag z = 0) : z = posZero ∨ z = negZero := by
  have hz := fpack_fsign_fmag z
  rw [h] at hz
  cases hs : fsign z
  · exact .inl (by rw [← hz, hs]; decide)
  · exact .inr (by rw [← hz, hs]; decide)

theorem fadd_posZero_of_zero {z : F32} (h : fmag z = 0) : fadd posZero z = posZero := by
  rcases eq_posZero_or_eq_negZero h with rfl | rfl <;> decide

theorem fsub_posZero_of_zero {z : F32} (h : fmag z = 0) : fsub posZero z = posZero :=
  fadd_posZero_of_zero (by rwa [fmag_fneg])

/-- +0.0 times a finite value is a zero with the value's sign. -/
theorem posZero_fmul (x : F32) (h : isFinite x = true) : fmul posZero x = fpack (fsign x) 0 := by
  have hzero : fsign posZero = false ∧ magUnits (fmag posZero) = 0 := by decide
  rw [fmul_of_isFinite _ _ (by decide) h, hzero.1, hzero.2, Nat.zero_mul, Bool.false_bne]
  exact congrArg (fpack _) (by decide)

theorem posZero_fmul_of_toNat_lt {x : F32} (h : x.toNat < infMag) : fmul posZero x = posZero := by
  obtain ⟨hfin, hsign, -⟩ := finite_of_toNat_lt x h
  rw [posZero_fmul x hfin, hsign]
  decide

/-! ## Before the filter -/

theorem oscillatorStages_of_disabled (c : Cfg) (n : Nat) (ks : List OscId) (s : State) (h : ∀ k, (s.snap.osc k).en = false) :
    oscillatorStages c n ks s = s := by
  induction ks with
  | nil => rfl
  | cons k ks ih => rw [oscillatorStages, stageOscillator_disabled c n k s (h k), ih]

/-- The envelope's gains are finite and not negative, so they leave +0.0. -/
theorem envApply_zeroFrames (n : Nat) (e : Envelope) (h : EnvelopeOk e) :
    (envApply e (List.replicate n zeroFrame)).1 = List.replicate n zeroFrame := by
  induction n generalizing e with
  | zero => rfl
  | succ n ih =>
    have hstep := envelopeOk_envStep e h
    have hgain := posZero_fmul_of_toNat_lt (hstep.value.trans_lt (by decide))
    have hframe : scaleFrame (envStep e).value zeroFrame = zeroFrame := by rw [scaleFrame, zeroFrame, hgain]
    rw [List.replicate_succ, envApply, ih _ hstep, hframe]

/-- The clear leaves +0.0, and no oscillator adds to it. -/
theorem filterEntry_mix_of_disabled (c : Cfg) (n : Nat) (s : State) (hdis : ∀ k, (s.ctl.osc k).en = false)
    (henv : EnvelopeOk s.env) : (filterEntry c n s).mix = List.replicate n zeroFrame := by
  rw [filterEntry, oscillatorStages_of_disabled c n _ _ hdis]
  exact envApply_zeroFrames n _ (envelopeOk_envSetRates c s.ctl s.env henv)

/-! ## The filter -/

/-- Zero histories and coefficients as the filter makes them. -/
structure FilterSilent (u : FilterUnit) : Prop where
  left : u.left.IsZero
  right : u.right.IsZero
  coefs : CoefsOk u.coefs

/-- The first product is +0.0, and adding or taking away zeros of either sign keeps it. -/
theorem biquadOut_of_zeros {k : Coefs} {h : History} (hk : CoefsOk k) (hh : h.IsZero) : biquadOut k h posZero = posZero := by
  obtain ⟨hx1, hx2, hy1, hy2⟩ := hh
  have hprod {a z : F32} (ha : isFinite a = true) (hz : fmag z = 0) : fmag (fmul a z) = 0 :=
    fmag_fmul_of_zero a z ha (isFinite_of_fmag_zero z hz) (.inr hz)
  have hfirst : fmul k.a0 posZero = posZero :=
    BitVec.eq_of_toNat_eq (Nat.le_zero.mp (toNat_fmul_le (b := 0) (Nat.le_pred_of_lt hk.a0) (by decide) (by decide)))
  rw [biquadOut, hfirst, fadd_posZero_of_zero (hprod (finite_of_toNat_lt _ hk.a1).1 hx1),
    fadd_posZero_of_zero (hprod (finite_of_toNat_lt _ hk.a2).1 hx2), fsub_posZero_of_zero (hprod hk.b1 hy1),
    fsub_posZero_of_zero (hprod hk.b2 hy2)]

theorem isZero_biquadShift {h : History} (hh : h.IsZero) : (biquadShift h posZero posZero).IsZero := by
  obtain ⟨hx1, -, hy1, -⟩ := hh
  have hzero : fmag posZero = 0 := by decide
  exact ⟨hzero, hx1, hzero, hy1⟩

theorem filterSilent_filtRecompute (c : Cfg) (hsine : SineNonNegative c) (res ce : F32) (u : FilterUnit) (hce : InCutoffRange ce)
    (h : FilterSilent u) : FilterSilent (filtRecompute c res ce u) := by
  unfold filtRecompute
  split
  · exact ⟨h.left, h.right, coefsOk_filtCoefs c hsine ce res hce⟩
  · exact h

/-- A silent filter answers +0.0 to +0.0 and stays silent. -/
theorem filterSample_zeroFrame {u : FilterUnit} (h : FilterSilent u) :
    (filterSample u zeroFrame).1 = zeroFrame ∧ FilterSilent (filterSample u zeroFrame).2 := by
  have hleft := biquadOut_of_zeros h.coefs h.left
  have hright := biquadOut_of_zeros h.coefs h.right
  simp only [filterSample, zeroFrame, hleft, hright, true_and]
  exact ⟨isZero_biquadShift h.left, isZero_biquadShift h.right, h.coefs⟩

theorem filterFrame_zeroFrame (c : Cfg) (hsine : SineNonNegative c) (snap : Controls) (linc : F32) (u : FilterUnit)
    (h : FilterSilent u) :
    (filterFrame c snap linc u zeroFrame).1 = zeroFrame ∧ FilterSilent (filterFrame c snap linc u zeroFrame).2 := by
  obtain ⟨hout, hnext⟩ := filterSample_zeroFrame
    (filterSilent_filtRecompute c hsine snap.resonance _ u (inCutoffRange_lfoCutoff c snap u.lfoPhase) h)
  exact ⟨hout, hnext.left, hnext.right, hnext.coefs⟩

theorem filterFrames_zeroFrames (c : Cfg) (hsine : SineNonNegative c) (snap : Controls) (linc : F32) (n : Nat) (u : FilterUnit)
    (h : FilterSilent u) : (filterFrames c snap linc u (List.replicate n zeroFrame)).1 = List.replicate n zeroFrame := by
  induction n generalizing u with
  | zero => rfl
  | succ n ih =>
    obtain ⟨hout, hnext⟩ := filterFrame_zeroFrame c hsine snap linc u h
    rw [List.replicate_succ, filterFrames, hout, ih _ hnext]

/-! ## The whole PROCESS -/

theorem processWhole_mix_of_disabled (c : Cfg) (n : Nat) (s : State) (hsine : SineNonNegative c)
    (hdis : ∀ k, (s.ctl.osc k).en = false) (hfilt : FilterSilent s.filt) (henv : EnvelopeOk s.env) :
    (processWhole c n s).mix = List.replicate n zeroFrame := by
  rw [processWhole_mix, stageFilter, filterEntry_mix_of_disabled c n s hdis henv, filterEntry_filt]
  exact filterFrames_zeroFrames c hsine _ _ n s.filt hfilt

/-- Settles O35: the gains, the coefficients and VOLUME are finite, and none of the operations turns a zero into anything else. -/
theorem disabledOscillatorsGiveSilence : Obligations.DisabledOscillatorsGiveSilence := by
  refine ⟨filterEntry_mix_of_disabled, fun c n s hsine hdis hleft hright hcoefs henv hvol => ?_⟩
  have hmix := processWhole_mix_of_disabled c n s hsine hdis ⟨hleft, hright, hcoefs⟩ henv
  refine ⟨fun f hf => List.eq_of_mem_replicate (hmix ▸ hf), fun i hi => ?_⟩
  have hwords (j : Nat) (hj : j < n) := outbufWord_processWhole c n s j zeroFrame (by rw [hmix, List.getElem?_replicate_of_lt hj])
  have hword : outbufWord c (processWhole c n s) i = fmul posZero s.ctl.volume := by
    rcases Nat.even_or_odd' i with ⟨j, rfl | rfl⟩
    · exact (hwords j (by omega)).1
    · exact (hwords j (by omega)).2
  rw [hword, posZero_fmul _ hvol]
  cases fsign s.ctl.volume <;> decide

end Sys2Proof.Machine
end

section
/-! SUPPORT. Every step answers a next state, an idle block with no move left stays as it is, and what a host access that submits no
command cannot reach (60_exceptions.md R360, R371 to R374). -/

namespace Sys2Proof.Machine

/-! ## No fault and no refusal (R360) -/

theorem exec_answers_next (i : Instr) (s : State) : ∃ t, exec i s = .next t := by
  cases i with
  | noteOn note => exact ⟨_, exec_noteOn note s⟩
  | noteOff => exact ⟨_, exec_noteOff s⟩
  | process n => exact ⟨_, exec_process n s⟩

/-- Settles O45: a move of the host or a stage is a next state, and so is what every command answers. -/
theorem nothingStopsTheBlock : Obligations.NothingStopsTheBlock := by
  intro s
  cases hf : fetch s with
  | moved t => exact ⟨t, by rw [step, hf]⟩
  | command i u =>
    obtain ⟨t, ht⟩ := exec_answers_next i u
    exact ⟨t, by rwa [step, hf]⟩

/-! ## No move pending (R374) -/

/-- Settles O46: with no move left k steps are k stages, and an idle block has no stage to run. -/
theorem idleBlockKeepsItsState : Obligations.IdleBlockKeepsItsState := fun k s hinbox hidle => by
  rw [run_of_nil k s hinbox, runStages_idle _ k s ((not_busy_iff s).mp hidle)]

/-! ## A host access that submits no command (R373) -/

@[simp] theorem busAccess_inbox (c : Cfg) (a : Access) (s : State) : (busAccess c a s).inbox = s.inbox := by
  cases a with
  | read off size => exact busRead_inbox c off size s
  | write off size lanes v =>
    obtain ⟨ctl, ill, busErr, h⟩ := busWrite_frame c off size lanes v s
    rw [busAccess, h]

/-- Settles O47: the step is the access itself, which leaves the engine as it was and takes only its own move from the inbox. -/
theorem hostAccessesCannotReachEngineState : Obligations.HostAccessesCannotReachEngineState := by
  intro s t a rest hinbox hnone hstep
  rw [step_of_access s a rest hinbox hnone] at hstep
  cases hstep
  obtain ⟨hphases, henv, hfilt, hprogress, hsnap, hmix, hscratch, houtbuf, hdraws⟩ := sameEngine_busAccess Config.machine a s rest
  exact ⟨hphases, henv, hfilt, hprogress, hsnap, hmix, hscratch, houtbuf, hdraws, busAccess_inbox _ a _⟩

end Sys2Proof.Machine
end

section
/-! SUPPORT. Reset, the first PROCESS after it, and the completion of a running PROCESS (70_reset_and_hazards.md R390, R400, R401,
R421). -/

namespace Sys2Proof.Machine

/-! ## A running PROCESS with no move left (R421) -/

/-- Settles O41: with no move left eight steps are the eight stages that waiting for BUSY = 0 runs. -/
theorem acceptedProcessCompletes : Obligations.AcceptedProcessCompletes := fun s hinbox =>
  ⟨_, run_of_nil stageCount s hinbox, awaitIdle_not_busy _ s, rfl⟩

/-! ## The reset state (R400) -/

@[simp] theorem regValue_reset (r : Reg) : regValue State.reset r = 0#32 := by cases r <;> rfl

/-- Settles O48: a register reads the word that its reset value codes, and OUTBUF lists no cell. -/
theorem resetRegistersReadZero : Obligations.ResetRegistersReadZero :=
  ⟨regValue_reset, State.reset_busy, rfl, fun k => by cases k <;> exact ⟨rfl, rfl⟩, fun _ => rfl⟩

/-! ## The reset move (R390) -/

theorem step_of_reset (s : State) (rest : List HostMove) (h : s.inbox = .reset :: rest) :
    step s = .next (applyReset { s with inbox := rest }) := by
  simp [step, fetch, h]

@[simp] theorem regValue_applyReset (s : State) (r : Reg) : regValue (applyReset s) r = 0#32 :=
  (show regValue (applyReset s) r = regValue State.reset r by cases r <;> rfl).trans (regValue_reset r)

/-- Settles O49: the step is the reset itself, which leaves the registers of the reset state, no PROCESS in progress, and an empty
OUTBUF of the next reset's epoch. -/
theorem resetMoveAbandonsEverything : Obligations.ResetMoveAbandonsEverything := fun s rest hinbox =>
  ⟨_, step_of_reset s rest hinbox, regValue_applyReset _, rfl, fun k => runStages_idle _ k _ rfl, fun _ => rfl, fun _ => rfl, rfl⟩

/-! ## The rates that a PROCESS sets (R223) -/

/-- A frame step leaves both rates as they are, in every row of R221. -/
theorem envStep_rates (e : Envelope) : (envStep e).attackRate = e.attackRate ∧ (envStep e).releaseRate = e.releaseRate := by
  cases hs : e.state with
  | idle => rw [envStep_of_idle hs]; exact ⟨rfl, rfl⟩
  | attack => rw [envStep_of_attack hs, envStepAttack]; split <;> exact ⟨rfl, rfl⟩
  | sustain => rw [envStep_of_sustain hs]; exact ⟨rfl, rfl⟩
  | release => rw [envStep_of_release hs, envStepRelease]; split <;> exact ⟨rfl, rfl⟩

theorem envStep_iterate_rates (n : Nat) (e : Envelope) :
    (envStep^[n] e).attackRate = e.attackRate ∧ (envStep^[n] e).releaseRate = e.releaseRate := by
  induction n with
  | zero => exact ⟨rfl, rfl⟩
  | succ n ih =>
    obtain ⟨hattack, hrelease⟩ := envStep_rates (envStep^[n] e)
    rw [Function.iterate_succ_apply']
    exact ⟨hattack.trans ih.1, hrelease.trans ih.2⟩

/-- The rates a PROCESS sets at its start stand at its end. -/
theorem processWhole_rates (c : Cfg) (n : Nat) (s : State) :
    (processWhole c n s).env.attackRate = envRate c s.ctl.attackTime ∧
      (processWhole c n s).env.releaseRate = envRate c s.ctl.releaseTime := by
  rw [processWhole_env]
  exact envStep_iterate_rates n (envSetRates c s.ctl s.env)

/-! ## The filter at a constant effective cutoff (R276, R278) -/

/-- COEF_VALID = 1 at the effective cutoff `cut`, and an LFO phase as R78 keeps it. -/
structure FilterSettled (cut : F32) (u : FilterUnit) : Prop where
  lfoPhase : InUnit u.lfoPhase
  coefValid : u.coefValid = true
  lastCutoff : u.lastCutoff = cut

/-- A frame settles the filter at its own effective cutoff when the coefficients it finds, if valid, were made at that cutoff. -/
theorem filterSettled_filterFrame (c : Cfg) (snap : Controls) (linc : F32) (u : FilterUnit) (f : Frame)
    (h : u.coefValid = true → u.lastCutoff = lfoCutoff c snap u.lfoPhase) :
    FilterSettled (lfoCutoff c snap u.lfoPhase) (filterFrame c snap linc u f).2 := by
  rw [filterFrame_eq, filtRecompute_eq]
  split
  · exact ⟨inUnit_wrap _, rfl, rfl⟩
  · rename_i hkeep
    have hvalid : u.coefValid = true := by simpa using (not_or.mp hkeep).1
    exact ⟨inUnit_wrap _, hvalid, h hvalid⟩

/-- With a zero AUTO_AMOUNT every frame has the same effective cutoff, so a first frame at COEF_VALID = 0 settles the filter and
the later ones leave it so. -/
theorem filterSettled_filterFrames (c : Cfg) (snap : Controls) (linc : F32) (u : FilterUnit) (f : Frame) (fs : List Frame)
    (hamount : fmag snap.autoAmount = 0) (hphase : InUnit u.lfoPhase) (hinvalid : u.coefValid = false) :
    FilterSettled (clamp snap.cutoff cutoffMin cutoffMax) (filterFrames c snap linc u (f :: fs)).2 := by
  have hframe (v : FilterUnit) (g : Frame) (hv : InUnit v.lfoPhase)
      (hlast : v.coefValid = true → v.lastCutoff = clamp snap.cutoff cutoffMin cutoffMax) :
      FilterSettled (clamp snap.cutoff cutoffMin cutoffMax) (filterFrame c snap linc v g).2 := by
    rw [← lfoCutoff_of_zero_amount c snap v.lfoPhase hv hamount] at hlast ⊢
    exact filterSettled_filterFrame c snap linc v g hlast
  exact filterFrames_keeps c snap linc _ (fun v g hv => hframe v g hv.lfoPhase fun _ => hv.lastCutoff) fs _
    (hframe u f hphase (by simp [hinvalid]))

theorem filterSettled_processWhole (c : Cfg) (n : Nat) (s : State) (hn : 0 < n) (hamount : fmag s.ctl.autoAmount = 0)
    (hphase : InUnit s.filt.lfoPhase) (hinvalid : s.filt.coefValid = false) :
    FilterSettled (clamp s.ctl.cutoff cutoffMin cutoffMax) (processWhole c n s).filt := by
  obtain ⟨f, fs, hmix⟩ := List.exists_cons_of_length_pos ((filterEntry_mix_length c n s).symm ▸ hn)
  rw [processWhole_filt, hmix]
  exact filterSettled_filterFrames c s.ctl _ s.filt f fs hamount hphase hinvalid

/-! ## The first PROCESS after reset (R401) -/

/-- Settles O36: after reset the oscillators are disabled and the histories zero, both times are +0.0, and a CUTOFF of +0.0 is
clamped to 20.0. -/
theorem firstProcessAfterResetIsSilent : Obligations.FirstProcessAfterResetIsSilent := by
  intro c n hsine
  have hrate : envRate c 0#32 = instantRate := envRate_of_not_positive c (by decide)
  obtain ⟨hattack, hrelease⟩ := processWhole_rates c n State.reset
  refine ⟨(disabledOscillatorsGiveSilence.2 c n State.reset hsine (fun k => by cases k <;> rfl) (by decide) (by decide)
    ⟨by decide, by decide, by decide, by decide, by decide⟩ resetMeetsTheRegisterInvariants.env (by decide)).2,
    hattack.trans hrate, hrelease.trans hrate, fun hn => ?_⟩
  have hsettled := filterSettled_processWhole c n State.reset hn (by decide) (by decide) rfl
  exact ⟨hsettled.coefValid, hsettled.lastCutoff.trans (by decide)⟩

end Sys2Proof.Machine
end
